-- ==== Sys2Proof/Word.lean ====
section
/-! DEFINITION. Word.lean: the widths the spec fixes (00_scope.md R5, R9): a byte of ENC, an integer of INT, a vector. -/

namespace Sys2Proof

/-- A byte: 8 bits (00_scope.md R9). -/
abbrev Byte := BitVec 8

/-- An integer of the sequence: 32 bits, unsigned (00_scope.md R5, `ELEM_BITS`). -/
abbrev Word := BitVec 32

/-- A vector register: 128 bits (00_scope.md R5, `VLEN`). -/
abbrev V128 := BitVec 128

end Sys2Proof
end

