-- ==== Sys2Proof/Syntax.lean ====
section
/-! DEFINITION. Syntax.lean: the words the unit decodes (30_encoding.md R80), one constructor per row of
spec/opcode_table.json. -/

namespace Sys2Proof

/-- An instruction: one of the six command words of R82, which carry no operands (R81), or a control byte of R84, which
carries four 2-bit length codes. -/
inductive Instr
  /-- `BLEN` (R107). -/
  | blen
  /-- `CLEN` (R108). -/
  | clen
  /-- `MLEN` (R109). -/
  | mlen
  /-- `ENC` (R120). -/
  | enc
  /-- `DEC.S` (R130). -/
  | decS
  /-- `DEC.V` (R140). -/
  | decV
  /-- `QUAD`, a control byte: field `b_i` is the length code of integer `4k + i` of quad `k` (R84, R85). -/
  | quad (b0 b1 b2 b3 : BitVec 2)
  deriving DecidableEq, Repr

end Sys2Proof
end

