-- ==== Sys2Proof/WellFormed.lean ====
section
/-! DEFINITION. WellFormed.lean: which instructions the encodings admit (30_encoding.md R81, R87). The checks on what the
HOST asks for (register widths, buffer offsets) are `HostOp.wellFormed` in Machine/Host.lean. -/

namespace Sys2Proof

/-- Which of the two formats of R80 the word has: `true` for `CMD8` (a command word), `false` for `CTRL8` (a control byte). -/
def Instr.isCommand : Instr → Bool
  | .blen => true
  | .clen => true
  | .mlen => true
  | .enc => true
  | .decS => true
  | .decV => true
  | .quad _ _ _ _ => false

/-- Well-formedness of an instruction. A command has no operand field (R81) and every one of the 256 control bytes is legal
(R87: "Reserved and illegal control bytes: there are none"), and the fields' widths are their types, so there is no
instruction to refuse. -/
def Instr.wellFormed : Instr → Bool
  | .blen => true
  | .clen => true
  | .mlen => true
  | .enc => true
  | .decS => true
  | .decV => true
  | .quad _ _ _ _ => true

end Sys2Proof
end

