-- ==== Sys2Proof/Decode.lean ====
section
/-! DEFINITION. Decode.lean: the two decoders (30_encoding.md R82, R83 for `CMD8`; R84, R87 for `CTRL8`), the encoder, and
the host's table view of them. -/

namespace Sys2Proof

/-- Why a command word is refused by the decoder: it is one of the 250 values of R83. -/
inductive DecodeReject
  | illegalOpcode (v : Byte)
  deriving DecidableEq, Repr

/-- The opcode map of R82, a row a command. -/
def commandRows : List (Byte × Instr) :=
  [(0x01, .blen), (0x02, .clen), (0x03, .mlen), (0x04, .enc), (0x08, .decS), (0x09, .decV)]

/-- Decode a command word (R82). Every value not in the map is illegal, rejected by name (R83). -/
def decodeCmd (v : Byte) : Except DecodeReject Instr :=
  match commandRows.find? (fun row => row.1 == v) with
  | some row => .ok row.2
  | none => .error (.illegalOpcode v)

/-- Decode a control byte (R84): four 2-bit fields, low field first. All 256 values are legal (R87). -/
def decodeCtrl (c : Byte) : Instr :=
  .quad (c.extractLsb' 0 2) (c.extractLsb' 2 2) (c.extractLsb' 4 2) (c.extractLsb' 6 2)

/-- The control byte whose fields are `b0 .. b3` (R84): `c = b0 + 4*b1 + 16*b2 + 64*b3`. -/
def ctrlByte (b0 b1 b2 b3 : BitVec 2) : Byte :=
  BitVec.ofNat 8 (b0.toNat + 4 * b1.toNat + 16 * b2.toNat + 64 * b3.toNat)

/-- The word of an instruction (R82 for commands, R84 for control bytes). -/
def encode : Instr → Byte
  | .blen => 0x01
  | .clen => 0x02
  | .mlen => 0x03
  | .enc => 0x04
  | .decS => 0x08
  | .decV => 0x09
  | .quad b0 b1 b2 b3 => ctrlByte b0 b1 b2 b3

/-- Decode a byte in the format given: `true` for a command word, `false` for a control byte. Which of the two a byte is
depends on where it stands (the CMD register or the control stream), never on its bits (R80). -/
def decodeAs (command : Bool) (w : Byte) : Except DecodeReject Instr :=
  if command then decodeCmd w else .ok (decodeCtrl w)

/-- The instruction the table's word stands for. The table has rows of both formats over the same 8 bits, so a word that
R82 lists is read as that command and any other word as a control byte (log 18). -/
def decodeTableWord (nbits w : Nat) : Option Instr :=
  if nbits = 8 ∧ w < 256 then
    match decodeCmd (BitVec.ofNat 8 w) with
    | .ok i => some i
    | .error _ => some (decodeCtrl (BitVec.ofNat 8 w))
  else none

/-- A row of spec/opcode_table.json: the word's fixed bits. -/
structure TableRow where
  mask : Byte
  pattern : Byte
  deriving DecidableEq, Repr

/-- Each instruction's row in spec/opcode_table.json ("mask" and "match"). -/
def tableRow : Instr → TableRow
  | .blen => ⟨0xFF, 0x01⟩
  | .clen => ⟨0xFF, 0x02⟩
  | .mlen => ⟨0xFF, 0x03⟩
  | .enc => ⟨0xFF, 0x04⟩
  | .decS => ⟨0xFF, 0x08⟩
  | .decV => ⟨0xFF, 0x09⟩
  | .quad _ _ _ _ => ⟨0x00, 0x00⟩

end Sys2Proof
end

