-- ==== Sys2Proof/Machine/Format.lean ====
section
/-! DEFINITION. Machine/Format.lean: the pure functions of 40_format_primitives.md (R100 to R106) and the bytes of a payload
(30_encoding.md R89). -/

namespace Sys2Proof.Machine

/-- `byte_length(x)` by its thresholds (R100; 93_implementation_defined.md G1 takes the thresholds as the definition). -/
def byteLength (x : Word) : Nat :=
  if x.toNat < 2 ^ 8 then 1
  else if x.toNat < 2 ^ 16 then 2
  else if x.toNat < 2 ^ 24 then 3
  else 4

/-- `bits_required(x)`: 0 for 0, otherwise `floor(log2 x) + 1` (R101, the spec's own general knowledge; log 22). -/
def bitsRequired (x : Word) : Nat :=
  if x.toNat = 0 then 0 else Nat.log2 x.toNat + 1

/-- `control_stream_len(n) = ceil(n / 4)` (R102). -/
def controlStreamLen (n : Nat) : Nat := (n + 3) / 4

/-- `max_encoded_len(n) = ceil(n / 4) + 4 * n` (R103), over the naturals. -/
def maxEncodedLen (n : Nat) : Nat := controlStreamLen n + 4 * n

/-- `ctrl_pack(L_0, L_1, L_2, L_3)` (R104): the four length codes, low field first. -/
def ctrlPack (l0 l1 l2 l3 : Nat) : Byte :=
  BitVec.ofNat 8 ((l0 - 1) ||| ((l1 - 1) <<< 2) ||| ((l2 - 1) <<< 4) ||| ((l3 - 1) <<< 6))

/-- `ctrl_len(c, i) = ((c >> (2*i)) & 3) + 1` (R105). -/
def ctrlLen (c : Byte) (i : Nat) : Nat := ((c >>> (2 * i)) &&& 3#8).toNat + 1

/-- `quad_len(c, r)`: the payload bytes of the first `r` integers of a quad with control byte `c` (R106). -/
def quadLen (c : Byte) : Nat → Nat
  | 0 => 0
  | r + 1 => quadLen c r + ctrlLen c r

/-- The integers of the quad that starts when `rem` are left: 4 for a full quad, 1 to 3 for the trailing partial quad
(R123, R133: `r = min(4, rem)`). -/
def quadSize (rem : Nat) : Nat := min 4 rem

/-- The payload of an integer: its low `byte_length(x)` bytes, least significant first (R89). -/
def payload (x : Word) : List Byte :=
  (List.range (byteLength x)).map fun j => x.extractLsb' (8 * j) 8

/-- The payload bytes of a list of integers, in order (20_memory.md R61). -/
def payloads (xs : List Word) : List Byte := xs.flatMap payload

/-- The control byte of the up to four integers of a quad: an absent integer counts as length 1, so that its field is zero
(R104, R124). -/
def quadControl (xs : List Word) : Byte :=
  let l := fun i => match xs[i]? with
    | some x => byteLength x
    | none => 1
  ctrlPack (l 0) (l 1) (l 2) (l 3)

end Sys2Proof.Machine
end

