-- ==== Sys2Proof/Config.lean ====
section
/-! DEFINITION. Config.lean: what an implementation fixes (AW) and the free values (00_scope.md R6, R12 `draw`). -/

namespace Sys2Proof

/-- The width AW that `State.reset` starts with.
DESIGN CHOICE (log 1): R6 leaves AW to the implementation, with AW >= 8; every state carries its own `aw`. -/
def Config.aw : Nat := 32

/-- The byte the host's memory holds at ENC offset `a` before anybody has written it (10_state.md R38: "whatever the
host's memory holds"). A free value (log 4). -/
opaque Config.encInit : Nat → Byte

/-- The integer the host's memory holds at INT index `i` before anybody has written it (10_state.md R38).
A free value (log 4). -/
opaque Config.intInit : Nat → Word

/-- `draw(32-bit value)` (00_scope.md R12, 60_exceptions.md R186): the free integer of draw number `k` (log 5). -/
opaque Config.freeInt : Nat → Word

/-- `draw(byte)`: the free byte of draw number `k`, for the destination of an interrupted `ENC`
(70_reset_and_hazards.md R211; log 21). -/
opaque Config.freeByte : Nat → Byte

/-- The free number of draw number `k`, cut to the register's width where it is used, for a host read the spec gives no
value (10_state.md R28, R38; logs 2 and 6). -/
opaque Config.freeNat : Nat → Nat

end Sys2Proof
end

