-- ==== Sys2Proof/Machine/State.lean ====
section
/-! DEFINITION. Machine/State.lean: the machine's state as plain data (10_state.md), the host's actions (30_encoding.md R91),
the reasons a step can stop, and the state after reset (R38). -/

namespace Sys2Proof.Machine

/-- `STATUS.PHASE` (10_state.md R24). Values 6 and 7 never occur. -/
inductive Phase
  | idle
  | encRun
  | simdBulk
  | scalarTail
  | done
  | error
  deriving DecidableEq, Repr

/-- The four errors of 60_exceptions.md R180; `STATUS.ERRCODE` is one of them or NONE. -/
inductive ErrorKind
  | capacity
  | truncated
  | contract
  | illegalCmd
  deriving DecidableEq, Repr

/-- The decode strategy latched at start (10_state.md R31 `strat`): 0 scalar, 1 SIMD. -/
inductive Strategy
  | scalar
  | simd
  deriving DecidableEq, Repr

/-- What the host can do to the unit: the lines of a host program (30_encoding.md R91), the reset input
(70_reset_and_hazards.md R210), and doing nothing while the engine makes a step. -/
inductive HostOp
  /-- `WR r, v`: write `v` to register number `r`. -/
  | wr (r v : Nat)
  /-- `RD r`: read register number `r`. -/
  | rd (r : Nat)
  /-- `WAIT`: read STATUS until PHASE is DONE or ERROR. -/
  | wait
  /-- `FILL ENC`: place bytes in ENC from offset `a` on. -/
  | fillEnc (a : Nat) (bytes : List Byte)
  /-- `FILL INT`: place integers in INT from index `i` on. -/
  | fillInt (i : Nat) (xs : List Word)
  /-- `DUMP ENC`: read `k` bytes of ENC from offset `a` on. -/
  | dumpEnc (a k : Nat)
  /-- `DUMP INT`: read `k` integers of INT from index `i` on. -/
  | dumpInt (i k : Nat)
  /-- The reset input (R210). -/
  | reset
  /-- The host does nothing; the engine, if busy, makes one step (log 7). -/
  | pass
  deriving DecidableEq, Repr

/-- What a read of the host returned (log 8). -/
inductive Readout
  | reg (r v : Nat)
  | enc (a : Nat) (bytes : List Byte)
  | int (i : Nat) (xs : List Word)
  deriving DecidableEq, Repr

/-- A memory: (offset, cell) pairs, offsets strictly rising, only cells somebody has written (`Memory.wf` in Ops.lean). -/
abbrev Memory (α : Type) := List (Nat × α)

/-- Everything the spec gives the machine (10_state.md R21), with the parameter AW and the model's own fields `draws`,
`host` and `readouts` (INVENTORY.md, State). Registers the spec makes AW bits wide are natural numbers below `2 ^ aw`
(`State.Inv` in Safety.lean; log 15). -/
@[ext]
structure State where
  /-- The parameter AW (00_scope.md R6); no step changes it (log 1). -/
  aw : Nat
  /-- Register 0 (R23). -/
  CMD : Byte
  /-- Register 1, bits 2:0 (R24). -/
  phase : Phase
  /-- Register 1, bits 6:4 (R24); `none` is NONE. -/
  errCode : Option ErrorKind
  /-- Register 2 (R25). -/
  N : Nat
  /-- Register 3 (R26). -/
  X : Word
  /-- Register 4 (R27). -/
  ENC_LEN : Nat
  /-- Register 5 (R27). -/
  INT_LEN : Nat
  /-- Register 6 (R28). -/
  RESULT : Nat
  /-- Register 7 (R29). -/
  ERR_EXPECTED : Nat
  /-- Register 8 (R29). -/
  ERR_AVAILABLE : Nat
  /-- The host has written `N` since reset (R39). -/
  nWritten : Bool
  /-- The host has written `X` since reset (R39). -/
  xWritten : Bool
  /-- The host has written `ENC_LEN` since reset (R39). -/
  encLenWritten : Bool
  /-- The host has written `INT_LEN` since reset (R39). -/
  intLenWritten : Bool
  /-- Working registers (R31). -/
  n : Nat
  strat : Strategy
  cc : Nat
  dc : Nat
  oc : Nat
  rem : Nat
  c : Byte
  p : BitVec 5
  /-- Vector registers (R32). -/
  M : V128
  W : V128
  V : V128
  /-- The memory ENC (R35, R51). -/
  ENC : Memory Byte
  /-- The memory INT (R35, R52). -/
  INT : Memory Word
  /-- How many free values have been drawn (00_scope.md R12; log 5). -/
  draws : Nat
  /-- The host's pending actions, oldest first (log 7). -/
  host : List HostOp
  /-- What the host's reads returned, newest first (log 8). -/
  readouts : List Readout
  deriving DecidableEq, Repr

/-- Why the machine stops with a fault. Neither is ever raised from a state that meets `State.Inv`. -/
inductive Fault
  /-- Raised by an engine step whose access to ENC breaks MemRead's or MemWrite's `Requires a + k <= ENC_LEN`
  (00_scope.md R11). Safe: no access outside the buffer is given an effect. -/
  | encOutOfBounds
  /-- Raised by an engine step whose access to INT breaks `Requires i + k <= INT_LEN` (R11). Safe. -/
  | intOutOfBounds
  deriving DecidableEq, Repr

/-- Why the model gives a step no meaning. -/
inductive Refusal
  /-- An instruction without a meaning yet, by its mnemonic; raised by `exec` alone. Safe. -/
  | notModelled (mnemonic : String)
  /-- Raised by a host action that 70_reset_and_hazards.md R212 forbids while the unit is busy: a write of a register 0 to 8 (starting a
  command included) or an access to ENC or INT. R199: refusal. Safe. -/
  | hostAccessWhileBusy
  /-- Raised by a command that reads an operand register the host has not written since reset. R39, R199: refusal. Safe. -/
  | operandNeverWritten
  /-- Raised by a host write of a value that does not fit the register (R25: every value 0 .. 2^AW - 1 is legal). Safe. -/
  | hostValueTooWide
  /-- Raised by a host FILL or DUMP outside the offsets that AW bits can name (R51, R52). Safe. -/
  | hostOutsideSpace
  /-- Raised by a control byte executed where 45_driver.md R162 has no quad step: not in a decode phase, in SIMD_BULK with
  the guard false, or with nothing left to decode. `step` never does so. Safe. -/
  | noQuadDue
  deriving DecidableEq, Repr

/-- The answer of a meaning. -/
abbrev Result := Host.Outcome State Fault Refusal

/-- The state after reset of a unit of width `aw`: the values of R38 where it gives one (PHASE, ERRCODE, CMD, RESULT and the
error registers); the operand registers hold 0 and count as never written (DESIGN CHOICE, log 2), the working registers hold
0 (DESIGN CHOICE, log 3), the buffers hold whatever the host's memory holds (log 4). -/
def State.resetWith (aw : Nat) : State where
  aw := aw
  CMD := 0
  phase := .idle
  errCode := none
  N := 0
  X := 0
  ENC_LEN := 0
  INT_LEN := 0
  RESULT := 0
  ERR_EXPECTED := 0
  ERR_AVAILABLE := 0
  nWritten := false
  xWritten := false
  encLenWritten := false
  intLenWritten := false
  n := 0
  strat := .scalar
  cc := 0
  dc := 0
  oc := 0
  rem := 0
  c := 0
  p := 0
  M := 0
  W := 0
  V := 0
  ENC := []
  INT := []
  draws := 0
  host := []
  readouts := []

/-- The machine right after reset. -/
def State.reset : State := State.resetWith Config.aw

end Sys2Proof.Machine
end

