-- ==== Sys2Proof/Machine/Ops.lean ====
section
/-! DEFINITION. Machine/Ops.lean: the named operations over memory and registers: the two memories (00_scope.md R11,
20_memory.md), the end of a command, the entry of an error (60_exceptions.md R186), the start and the advance of a command's
working registers (the multiplexer, 20_memory.md R64, R65), and reset (70_reset_and_hazards.md R210, R211). -/

namespace Sys2Proof.Machine

/-! ## The two memories -/

/-- The canonical form of a memory: its offsets strictly rise. An unlisted cell has no value of its own (nobody has written
it), so no entry can equal what an unlisted cell holds (log 4). -/
abbrev Memory.wf {α : Type} (m : Memory α) : Prop := (m.map Prod.fst).Pairwise (· < ·)

/-- The value written last to a cell, if anybody has written it. -/
def Memory.read {α : Type} : Memory α → Nat → Option α
  | [], _ => none
  | (b, v) :: m, a => if a = b then some v else Memory.read m a

/-- Write one cell, keeping the offsets in rising order. -/
def Memory.write {α : Type} : Memory α → Nat → α → Memory α
  | [], a, v => [(a, v)]
  | (b, w) :: m, a, v =>
    if a < b then (a, v) :: (b, w) :: m
    else if a = b then (a, v) :: m
    else (b, w) :: Memory.write m a v

/-- Write a list of cells at ascending offsets from `a` on (20_memory.md R58). -/
def Memory.writeList {α : Type} (m : Memory α) (a : Nat) : List α → Memory α
  | [] => m
  | v :: vs => Memory.writeList (Memory.write m a v) (a + 1) vs

/-- The byte `ENC[a]`: the one written last, or what the host's memory held to begin with (log 4). -/
def State.encByte (s : State) (a : Nat) : Byte := (Memory.read s.ENC a).getD (Config.encInit a)

/-- The integer `INT[i]`, likewise. -/
def State.intWord (s : State) (i : Nat) : Word := (Memory.read s.INT i).getD (Config.intInit i)

/-- `MemRead`'s number: the `k` bytes of `f` from `a` on, little-endian (R11, R53). -/
def loadLE (f : Nat → Byte) (a : Nat) : Nat → Nat
  | 0 => 0
  | k + 1 => (f a).toNat + 256 * loadLE f (a + 1) k

/-- The bytes `ENC[a .. a+k)`. -/
def State.encBytes (s : State) (a k : Nat) : List Byte := (List.range k).map fun j => s.encByte (a + j)

/-- The integers `INT[i .. i+k)` (`MemRead(INT, i, k)`, R11). -/
def State.intWords (s : State) (i k : Nat) : List Word := (List.range k).map fun j => s.intWord (i + j)

/-- `a + k <= ENC_LEN`, what MemRead and MemWrite of ENC require (R11). -/
abbrev State.encHas (s : State) (a k : Nat) : Prop := a + k ≤ s.ENC_LEN

/-- `i + k <= INT_LEN`, what MemRead and MemWrite of INT require (R11). -/
abbrev State.intHas (s : State) (i k : Nat) : Prop := i + k ≤ s.INT_LEN

/-! ## Registers -/

/-- **busy**: PHASE in ENC_RUN, SIMD_BULK, SCALAR_TAIL (10_state.md R24). -/
def State.busy (s : State) : Bool :=
  match s.phase with
  | .encRun => true
  | .simdBulk => true
  | .scalarTail => true
  | .idle => false
  | .done => false
  | .error => false

/-- **ended**: PHASE in DONE, ERROR (R24). -/
def State.ended (s : State) : Bool :=
  match s.phase with
  | .done => true
  | .error => true
  | .idle => false
  | .encRun => false
  | .simdBulk => false
  | .scalarTail => false

/-- The greatest value of an AW-bit register. -/
def maxCount (aw : Nat) : Nat := 2 ^ aw - 1

/-- Replace the host's list of pending actions. -/
def State.withHost (s : State) (rest : List HostOp) : State := { s with host := rest }

/-- Store a command word in CMD (10_state.md R23). -/
def State.withCMD (v : Byte) (s : State) : State := { s with CMD := v }

/-- Move to another phase (00_scope.md R12 `PHASE <- p`). -/
def State.withPhase (ph : Phase) (s : State) : State := { s with phase := ph }

/-- `STATUS.ERRCODE <- NONE`. -/
def State.clearError (s : State) : State := { s with errCode := none }

/-- Load the working register `c` with the control byte read. -/
def State.withControl (c : Byte) (s : State) : State := { s with c := c }

/-- Replace the memory ENC. -/
def State.withENC (m : Memory Byte) (s : State) : State := { s with ENC := m }

/-- Replace the memory INT. -/
def State.withINT (m : Memory Word) (s : State) : State := { s with INT := m }

/-- Load the vector registers (10_state.md R32). -/
def State.withVectors (m w v : V128) (s : State) : State := { s with M := m, W := w, V := v }

/-- Record what a host read returned (log 8). -/
def State.addReadout (r : Readout) (s : State) : State := { s with readouts := r :: s.readouts }

/-- The end step of a command without error (R125, R135): the result, cleared error registers, PHASE DONE. -/
def State.finish (r : Nat) (s : State) : State :=
  { s with RESULT := r, ERR_EXPECTED := 0, ERR_AVAILABLE := 0, phase := .done }

/-! ## Error entry -/

/-- `k` consecutive draws of an integer, from draw number `d` on. -/
def drawnInts (d k : Nat) : List Word := (List.range k).map fun j => Config.freeInt (d + j)

/-- `k` consecutive draws of a byte, from draw number `d` on. -/
def drawnBytes (d k : Nat) : List Byte := (List.range k).map fun j => Config.freeByte (d + j)

/-- `INT[0 .. n)` becomes unspecified: every element is a draw (R186). -/
def State.loseInts (s : State) : State :=
  { s with INT := Memory.writeList s.INT 0 (drawnInts s.draws s.n), draws := s.draws + s.n }

/-- `ENC[0 .. max_encoded_len(n))` becomes unspecified (70_reset_and_hazards.md R211). -/
def State.loseBytes (s : State) : State :=
  { s with
    ENC := Memory.writeList s.ENC 0 (drawnBytes s.draws (maxEncodedLen s.n))
    draws := s.draws + maxEncodedLen s.n }

/-- `raise <Kind>(expected, available)` (60_exceptions.md R186), the one entry of every error. There is no saved program
counter, no vector and no mode to change, and no return instruction (R188): the host goes on by writing CMD. -/
def raise (kind : ErrorKind) (expected available : Nat) (s : State) : State :=
  let s := if kind = .truncated then s.loseInts else s
  { s with
    errCode := some kind
    ERR_EXPECTED := min expected (maxCount s.aw)
    ERR_AVAILABLE := available
    RESULT := 0
    phase := .error }

/-! ## The working registers: the multiplexer's cursors -/

/-- The cursor set-up of a command over `count` integers (R64: `cc <- 0`, `dc <- control_stream_len(n)`; R121, R131). -/
def State.latch (count : Nat) (strat : Strategy) (phase : Phase) (s : State) : State :=
  { s with
    n := count
    strat := strat
    cc := 0
    dc := controlStreamLen count
    oc := 0
    rem := count
    errCode := none
    phase := phase }

/-- The advance of a quad step over `r` integers and `len` payload bytes with control byte `c` (R65, R123, R133, R142). -/
def State.advance (c : Byte) (len r : Nat) (s : State) : State :=
  { s with
    c := c
    p := BitVec.ofNat 5 len
    cc := s.cc + 1
    dc := s.dc + len
    oc := s.oc + r
    rem := s.rem - r }

/-! ## Reset -/

/-- The reset input (R210): every piece of state takes the value of R38 and the buffers are not touched; a command that was
running has lost its destination (R211). The host's own lists and the draw counter are not the unit's. -/
def resetUnit (s : State) : State :=
  let lost := match s.phase with
    | .encRun => s.loseBytes
    | .simdBulk => s.loseInts
    | .scalarTail => s.loseInts
    | .idle => s
    | .done => s
    | .error => s
  { State.resetWith s.aw with
    ENC := lost.ENC, INT := lost.INT, draws := lost.draws, host := s.host, readouts := s.readouts }

end Sys2Proof.Machine
end

