-- ==== Sys2Proof/Machine/Operands.lean ====
section
/-! DEFINITION. Machine/Operands.lean: every operand form: the operand registers a command reads (10_state.md R25 to R27,
R39), the integers a payload holds (30_encoding.md R89), the 16-byte window (20_memory.md R54), the host's view of the register
file (R22). -/

namespace Sys2Proof.Machine

/-- "A command that reads an operand register the host has not written since reset [...] has no defined meaning; a model should
refuse it" (10_state.md R39); "refusal" is also its row in the table of 60_exceptions.md R199, beside which that table has
"draw" for an open value, and its treatment in 93_implementation_defined.md U7. -/
def whenWritten (written : Bool) (go : Result) : Result :=
  if written then go else .refused .operandNeverWritten

/-- A command starts when the unit is not busy (45_driver.md R160, R163), and goes on when the operand registers it reads first
have been written. -/
def whenStartable (written : Bool) (s : State) (go : Result) : Result :=
  if s.busy then .refused .hostAccessWhileBusy else whenWritten written go

/-- The operands of `ENC` have been written (70_reset_and_hazards.md R213). -/
def State.encodeOperandsWritten (s : State) : Bool := s.encLenWritten && s.intLenWritten

/-- The operands that the first check of `DEC.S` and `DEC.V` reads, CONTRACT's, have been written (43_scalar_decoder.md R131). -/
def State.contractOperandsWritten (s : State) : Bool := s.nWritten && s.encLenWritten

/-- The operands of `DEC.S` and `DEC.V` have been written (R213). -/
def State.decodeOperandsWritten (s : State) : Bool := s.nWritten && s.encLenWritten && s.intLenWritten

/-- The integer of a payload of `len` bytes at `d`: `zext_32(MemRead(ENC, d, len))` (R89). -/
def assemble (f : Nat → Byte) (d len : Nat) : Word := BitVec.ofNat 32 (loadLE f d len)

/-- The first `r` integers of a quad with control byte `c` whose payload starts at `d`: integer `i` has
`ctrl_len(c, i)` bytes and starts after those of the integers before it (R133). -/
def quadInts (f : Nat → Byte) (d : Nat) (c : Byte) (r : Nat) : List Word :=
  (List.range r).map fun i => assemble f (d + quadLen c i) (ctrlLen c i)

/-- The payload window: 16 bytes from `d` on, byte `j` of the vector from `d + j` (R54). -/
def loadWindow (f : Nat → Byte) (d : Nat) : V128 := BitVec.ofNat 128 (loadLE f d 16)

/-- The unit has the registers 0 to 8; the numbers from here on do not exist (R22). -/
def registerCount : Nat := 9

/-- The width in bits of host register `r` (R22), if the host may write it. -/
def writableWidth (aw r : Nat) : Option Nat :=
  if r = 0 then some 8
  else if r = 2 then some aw
  else if r = 3 then some 32
  else if r = 4 then some aw
  else if r = 5 then some aw
  else none

/-- Store a host write to an operand register (R25 to R27), which also counts as written from then on (R39). Registers the
host may not write, and numbers 9 and up, ignore the write (R22). -/
def State.storeOperand (r v : Nat) (s : State) : State :=
  if r = 2 then { s with N := v, nWritten := true }
  else if r = 3 then { s with X := BitVec.ofNat 32 v, xWritten := true }
  else if r = 4 then { s with ENC_LEN := v, encLenWritten := true }
  else if r = 5 then { s with INT_LEN := v, intLenWritten := true }
  else s

end Sys2Proof.Machine
end

