-- ==== Sys2Proof/Machine/Shuffle.lean ====
section
/-! DEFINITION. Machine/Shuffle.lean: the constant tables MTAB and PTAB and the byte shuffle (41_shuffle_table.md). The
tables are functions of the control byte, not state (10_state.md R34). -/

namespace Sys2Proof.Machine

/-- `V.byte[j] = V[8j+7 : 8j]` (00_scope.md R9). -/
def vecByte (v : V128) (j : Nat) : Byte := v.extractLsb' (8 * j) 8

/-- `V.lane[i] = V[32i+31 : 32i]` (R9). -/
def vecLane (v : V128) (i : Nat) : Word := v.extractLsb' (32 * i) 32

/-- The vector whose byte `j` is `f j`, for `j` in 0..15 (R9). -/
def vecOf (f : Nat → Byte) : V128 := BitVec.ofNat 128 (loadLE f 0 16)

/-- The selector that writes zero: `ZERO_SENTINEL` (00_scope.md R5). -/
def zeroSentinel : Byte := 0x80

/-- Byte `4*i + j` of `MTAB[c]`: `S_i + j` if `j < L_i`, the zero sentinel otherwise (R112). -/
def mtabByte (c : Byte) (k : Nat) : Byte :=
  if k % 4 < ctrlLen c (k / 4) then BitVec.ofNat 8 (quadLen c (k / 4) + k % 4) else zeroSentinel

/-- `MTAB[c]`, the shuffle mask (R112). "The generator is the definition of the table". -/
def mtab (c : Byte) : V128 := vecOf (mtabByte c)

/-- `PTAB[c]`, the payload length: `L_0 + L_1 + L_2 + L_3` (R113; 90_conflicts.md C1). -/
def ptab (c : Byte) : Nat := ctrlLen c 0 + ctrlLen c 1 + ctrlLen c 2 + ctrlLen c 3

/-- `SHUF(W, M)` (R116): a selector with bit 7 set writes zero, any other selects by its low 4 bits (log 22). -/
def shuf (w m : V128) : V128 :=
  vecOf fun k =>
    if (vecByte m k).getLsbD 7 then 0 else vecByte w ((vecByte m k).extractLsb' 0 4).toNat

end Sys2Proof.Machine
end

