-- ==== Sys2Proof/Machine/Decoder.lean ====
section
/-! DEFINITION. Machine/Decoder.lean: the scalar decoder DEC.S (43_scalar_decoder.md), the SIMD unpacker DEC.V
(44_simd_decoder.md) and the control byte QUAD that both execute. -/

namespace Sys2Proof.Machine

/-- The start step of both decodes (R131): CONTRACT, then CAPACITY (60_exceptions.md R185), then the cursors. The
error CONTRACT is reported before `INT_LEN` is read, so it does not ask for that register to be written (log 12). -/
def decodeStart (strat : Strategy) (phase : Phase) (s : State) : Result :=
  whenStartable s.contractOperandsWritten s <|
    if s.ENC_LEN < controlStreamLen s.N + s.N then
      .next (raise .contract (controlStreamLen s.N + s.N) s.ENC_LEN s)
    else
      whenWritten s.intLenWritten <|
        if s.INT_LEN < s.N then .next (raise .capacity s.N s.INT_LEN s)
        else .next (s.latch s.N strat phase)

/-- `DEC.S`: the start step with the scalar strategy (R130, R131). -/
def execDecS (s : State) : Result := decodeStart .scalar .scalarTail s

/-- `DEC.V`: the start step with the SIMD strategy (R140, R131). -/
def execDecV (s : State) : Result := decodeStart .simd .simdBulk s

/-- The guard `G` (R141): four integers left and the 16-byte window inside the ENC buffer. -/
def guardHolds (s : State) : Bool := 4 ≤ s.rem && s.dc + 16 ≤ s.ENC_LEN

/-- The scalar quad step for control byte `c` (R133), with the truncation check of R134 on the whole quad. -/
def scalarQuad (c : Byte) (s : State) : Result :=
  let r := quadSize s.rem
  let need := quadLen c r
  if ¬ s.encHas s.dc need then .next (raise .truncated (s.dc + need) s.ENC_LEN (s.withControl c))
  else if ¬ s.intHas s.oc r then .fault .intOutOfBounds
  else
    .next ((s.advance c need r).withINT (Memory.writeList s.INT s.oc (quadInts s.encByte s.dc c r)))

/-- The SIMD iteration for control byte `c` (R142): mask and length from the tables, the window at `dc`, one shuffle, four
integers stored at `oc`. -/
def simdQuad (c : Byte) (s : State) : Result :=
  let m := mtab c
  let w := loadWindow s.encByte s.dc
  let v := shuf w m
  if ¬ s.encHas s.dc 16 then .fault .encOutOfBounds
  else if ¬ s.intHas s.oc 4 then .fault .intOutOfBounds
  else
    .next (((s.advance c (ptab c) 4).withVectors m w v).withINT
      (Memory.writeList s.INT s.oc [vecLane v 0, vecLane v 1, vecLane v 2, vecLane v 3]))

/-- A quad step is due (45_driver.md R162): a SIMD iteration in SIMD_BULK while the guard holds, a scalar quad step in
SCALAR_TAIL while integers are left. -/
def quadDue (s : State) : Bool :=
  match s.phase with
  | .simdBulk => guardHolds s
  | .scalarTail => 0 < s.rem
  | .idle => false
  | .encRun => false
  | .done => false
  | .error => false

/-- `QUAD`: the control byte with fields `b0 .. b3` executed as the quad step of the phase (R84, R133, R142). Where no quad
step is due the spec gives a control byte no effect (R162), and the model refuses (log 17). -/
def execQuad (b0 b1 b2 b3 : BitVec 2) (s : State) : Result :=
  if quadDue s then
    if s.phase = .simdBulk then simdQuad (ctrlByte b0 b1 b2 b3) s else scalarQuad (ctrlByte b0 b1 b2 b3) s
  else .refused .noQuadDue

/-- How `decode_fn` can fail (R137). -/
inductive DecodeFailure
  | contract (expected : Nat)
  | truncated (expected : Nat)
  deriving DecidableEq, Repr

/-- The quads of `decode_fn` (R137): `k` quads still to decode, from quad `q` whose payload starts at `d`; `f` gives the
bytes of the string, `len` its length. -/
def decodeQuads (f : Nat → Byte) (len n : Nat) : Nat → Nat → Nat → Except DecodeFailure (List Word × Nat)
  | 0, _, d => .ok ([], d)
  | k + 1, q, d =>
    let r := quadSize (n - 4 * q)
    let need := quadLen (f q) r
    if len < d + need then .error (.truncated (d + need))
    else
      match decodeQuads f len n k (q + 1) (d + need) with
      | .ok (xs, e) => .ok (quadInts f d (f q) r ++ xs, e)
      | .error e => .error e

/-- `decode_fn` on the bytes `f 0 .. f (len-1)` and the count `n` (R137). The laws of the decoder (R138) are about it. -/
def decodeFn (f : Nat → Byte) (len n : Nat) : Except DecodeFailure (List Word × Nat) :=
  if len < controlStreamLen n + n then .error (.contract (controlStreamLen n + n))
  else decodeQuads f len n (controlStreamLen n) 0 (controlStreamLen n)

end Sys2Proof.Machine
end

