-- ==== Sys2Proof/Machine/Encoder.lean ====
section
/-! DEFINITION. Machine/Encoder.lean: the scalar encoder, command ENC (42_scalar_encoder.md). -/

namespace Sys2Proof.Machine

/-- `ENC`: the start step (R121). The capacity is checked against the maximum, before any write
(90_conflicts.md C7). The quad and end steps are the engine's (`encodeStep`). -/
def execEnc (s : State) : Result :=
  whenStartable s.encodeOperandsWritten s <|
    if s.ENC_LEN < maxEncodedLen s.INT_LEN then
      .next (raise .capacity (maxEncodedLen s.INT_LEN) s.ENC_LEN s)
    else .next (s.latch s.INT_LEN s.strat .encRun)

/-- `ENC`: the quad step (R123, R124): read up to four integers, write the control byte at `cc` and then the payloads at
`dc` upward, ascending (92_eei_decisions.md D20). -/
def encodeQuad (s : State) : Result :=
  let r := quadSize s.rem
  let xs := s.intWords s.oc r
  let c := quadControl xs
  let bytes := payloads xs
  if ¬ s.intHas s.oc r then .fault .intOutOfBounds
  else if ¬ s.encHas s.cc 1 ∨ ¬ s.encHas s.dc bytes.length then .fault .encOutOfBounds
  else
    .next ((s.advance c bytes.length r).withENC
      (Memory.writeList (Memory.writeList s.ENC s.cc [c]) s.dc bytes))

/-- The engine's step in ENC_RUN (R122): the end step (R125) when nothing is left, otherwise a quad step. -/
def encodeStep (s : State) : Result :=
  if s.rem = 0 then .next (s.finish s.dc) else encodeQuad s

/-- `encode_fn(xs)` (R127): the whole encoder as one function: `ceil(n/4)` control bytes, then the payloads. The laws of the
encoder (R128) are about it: its length against `maxEncodedLen`, its control bytes `quadControl`, the minimal `byteLength` of
each payload, and `decodeFn` as its inverse. -/
def encodeFn (xs : List Word) : List Byte :=
  (List.range (controlStreamLen xs.length)).map (fun k => quadControl ((xs.drop (4 * k)).take 4)) ++ payloads xs

end Sys2Proof.Machine
end

