-- ==== Sys2Proof/Machine/Primitives.lean ====
section
/-! DEFINITION. Machine/Primitives.lean: the commands BLEN, CLEN and MLEN (40_format_primitives.md R107 to R109), one step
each. -/

namespace Sys2Proof.Machine

/-- The last step of a primitive command (R107 to R109): the end of a command, with ERRCODE NONE. -/
def primitiveDone (r : Nat) (s : State) : State := (s.finish r).clearError

/-- `BLEN`: `RESULT <- byte_length(X)` (R107). -/
def execBlen (s : State) : Result :=
  whenStartable s.xWritten s (.next (primitiveDone (byteLength s.X) s))

/-- `CLEN`: `RESULT <- control_stream_len(N)` (R108). -/
def execClen (s : State) : Result :=
  whenStartable s.nWritten s (.next (primitiveDone (controlStreamLen s.N) s))

/-- `MLEN`: `RESULT <- max_encoded_len(N)`, or CONTRACT where that does not fit RESULT (R109, R183). -/
def execMlen (s : State) : Result :=
  whenStartable s.nWritten s <|
    if 2 ^ s.aw ≤ maxEncodedLen s.N then .next (raise .contract (maxCount s.aw) 0 s)
    else .next (primitiveDone (maxEncodedLen s.N) s)

end Sys2Proof.Machine
end

