-- ==== Sys2Proof/Machine/Dispatch.lean ====
section
/-! DEFINITION. Machine/Dispatch.lean: the meaning of every instruction (45_driver.md R160), one arm per constructor. -/

namespace Sys2Proof.Machine

def exec (i : Instr) (s : State) : Host.Outcome State Fault Refusal :=
  match i with
  | .blen => Sys2Proof.Machine.execBlen s
  | .clen => Sys2Proof.Machine.execClen s
  | .mlen => Sys2Proof.Machine.execMlen s
  | .enc => Sys2Proof.Machine.execEnc s
  | .decS => Sys2Proof.Machine.execDecS s
  | .decV => Sys2Proof.Machine.execDecV s
  | .quad b0 b1 b2 b3 => Sys2Proof.Machine.execQuad b0 b1 b2 b3 s

end Sys2Proof.Machine
end

