-- ==== Sys2Proof/Machine/Flags.lean ====
section
/-! DEFINITION. Machine/Flags.lean: the unit has no flags (10_state.md R33); the only status a command leaves is STATUS
(R24) and the result registers. This file gives STATUS as the host reads it, and the value of every host read. -/

namespace Sys2Proof.Machine

/-- The number of a phase in `STATUS[2:0]` (R24). -/
def phaseNumber : Phase → Nat
  | .idle => 0
  | .encRun => 1
  | .simdBulk => 2
  | .scalarTail => 3
  | .done => 4
  | .error => 5

/-- The number of an error in `STATUS[6:4]` (R24, 60_exceptions.md R180); 0 is NONE. -/
def errNumber : Option ErrorKind → Nat
  | none => 0
  | some .capacity => 1
  | some .truncated => 2
  | some .contract => 3
  | some .illegalCmd => 4

/-- STATUS as the host reads it (R24): PHASE in bits 2:0, ERRCODE in bits 6:4, bits 3 and 7 zero (log 14). -/
def State.statusWord (s : State) : Byte := BitVec.ofNat 8 (phaseNumber s.phase + 16 * errNumber s.errCode)

/-- What a host read of register `r` gives, where the spec fixes it (R22 to R29): `none` for RESULT and the error registers
while busy (R28: "unspecified") and for an operand register never written since reset (R38: unspecified). -/
def State.readReg (s : State) (r : Nat) : Option Nat :=
  if r = 0 then some s.CMD.toNat
  else if r = 1 then some s.statusWord.toNat
  else if r = 2 then if s.nWritten then some s.N else none
  else if r = 3 then if s.xWritten then some s.X.toNat else none
  else if r = 4 then if s.encLenWritten then some s.ENC_LEN else none
  else if r = 5 then if s.intLenWritten then some s.INT_LEN else none
  else if r = 6 then if s.busy then none else some s.RESULT
  else if r = 7 then if s.busy then none else some s.ERR_EXPECTED
  else if r = 8 then if s.busy then none else some s.ERR_AVAILABLE
  else some 0

/-- The width in bits of what a read of register `r` can return where the spec gives no value: 32 for `X`, AW otherwise. -/
def readWidth (aw r : Nat) : Nat := if r = 3 then 32 else aw

end Sys2Proof.Machine
end

