-- ==== Sys2Proof/Machine/Sequencer.lean ====
section
/-! DEFINITION. Machine/Sequencer.lean: the phase machine (45_driver.md R162) and the fetch of a control byte
(20_memory.md R65). The functions take the meaning of an instruction as their argument `run`; Step.lean gives them `exec`. -/

namespace Sys2Proof.Machine

/-- The one control access of a decode step (R65): read the control byte at `cc`, decode it (30_encoding.md R84), run it. -/
def fetchQuad (run : Instr → State → Result) (s : State) : Result :=
  if ¬ s.encHas s.cc 1 then .fault .encOutOfBounds else run (decodeCtrl (s.encByte s.cc)) s

/-- The engine's step in SIMD_BULK (44_simd_decoder.md R141): the iteration while the guard holds, otherwise the switch step
R143, which changes PHASE and nothing else. -/
def bulkStep (run : Instr → State → Result) (s : State) : Result :=
  if guardHolds s then fetchQuad run s else .next (s.withPhase .scalarTail)

/-- The engine's step in SCALAR_TAIL (43_scalar_decoder.md R132): the end step R135 when nothing is left, otherwise a scalar
quad step. -/
def tailStep (run : Instr → State → Result) (s : State) : Result :=
  if s.rem = 0 then .next (s.finish s.dc) else fetchQuad run s

/-- The engine's step (R162, R164). In IDLE, DONE and ERROR the engine does nothing (60_exceptions.md R197; log 9). -/
def engineStep (run : Instr → State → Result) (s : State) : Result :=
  match s.phase with
  | .encRun => encodeStep s
  | .simdBulk => bulkStep run s
  | .scalarTail => tailStep run s
  | .idle => .next s
  | .done => .next s
  | .error => .next s

end Sys2Proof.Machine
end

