-- ==== Sys2Proof/Machine/Host.lean ====
section
/-! DEFINITION. Machine/Host.lean: the host's side (45_driver.md R168): what each of its actions does to the unit, which
actions R212 forbids while busy, and the pseudo-operations of 30_encoding.md R92. -/

namespace Sys2Proof.Machine

/-- What the host asks for fits the unit of width `aw`: a written value fits its register (10_state.md R22, R25, R26) and a
buffer access stays inside the offsets AW bits can name (20_memory.md R51, R52). Writes that are ignored (R22) fit always. -/
def HostOp.wellFormed (aw : Nat) : HostOp → Bool
  | .wr r v =>
    match writableWidth aw r with
    | some w => decide (v < 2 ^ w)
    | none => true
  | .rd _ => true
  | .wait => true
  | .fillEnc a bytes => decide (a + bytes.length ≤ 2 ^ aw)
  | .fillInt i xs => decide (i + xs.length ≤ 2 ^ aw)
  | .dumpEnc a k => decide (a + k ≤ 2 ^ aw)
  | .dumpInt i k => decide (i + k ≤ 2 ^ aw)
  | .reset => true
  | .pass => true

/-- A host write of `v` to `CMD` while not busy: `CMD` holds `v` and the command's first step is made
(10_state.md R23, 45_driver.md R160); an opcode that R82 does not list raises ILLEGAL_CMD (60_exceptions.md R184). -/
def startCommand (run : Instr → State → Result) (v : Byte) (s : State) : Result :=
  match decodeCmd v with
  | .ok i => run i (s.withCMD v)
  | .error _ => .next (raise .illegalCmd 0 0 (s.withCMD v))

/-- `WR r, v`. A number that is no register ignores the write at any time (R22; DEDUCED for the time the unit is busy, log 27).
A write to any register of the unit is refused while busy (R212), and otherwise for a value the register cannot hold (log 13);
register 0 starts a command, the operand registers store, the read-only ones ignore the write (R22). -/
def hostWrite (run : Instr → State → Result) (r v : Nat) (s : State) : Result :=
  if registerCount ≤ r then .next s
  else if s.busy then .refused .hostAccessWhileBusy
  else if ¬ (HostOp.wr r v).wellFormed s.aw then .refused .hostValueTooWide
  else if r = 0 then startCommand run (BitVec.ofNat 8 v) s
  else .next (s.storeOperand r v)

/-- `RD r`: the value the spec gives, or a draw cut to the register's width where it gives none (R28, R38; logs 2 and 6). -/
def hostRead (r : Nat) (s : State) : State :=
  match s.readReg r with
  | some v => s.addReadout (.reg r v)
  | none =>
    { s.addReadout (.reg r (Config.freeNat s.draws % 2 ^ readWidth s.aw r)) with draws := s.draws + 1 }

/-- An access of the host to a buffer: refused while busy (R212) and outside the space. -/
def bufferAccess (op : HostOp) (s : State) (t : State) : Result :=
  if s.busy then .refused .hostAccessWhileBusy
  else if ¬ op.wellFormed s.aw then .refused .hostOutsideSpace
  else .next t

/-- The step in which the host's oldest action `op` is due, `s` being the state without it and `waiting` the state with it
still pending. `WAIT` goes while the command has not ended, the engine making its steps; `pass` is one engine step. -/
def hostStep (run : Instr → State → Result) (op : HostOp) (waiting s : State) : Result :=
  match op with
  | .wr r v => hostWrite run r v s
  | .rd r => .next (hostRead r s)
  | .wait => if s.ended then .next s else engineStep run waiting
  | .fillEnc a bytes => bufferAccess op s (s.withENC (Memory.writeList s.ENC a bytes))
  | .fillInt i xs => bufferAccess op s (s.withINT (Memory.writeList s.INT i xs))
  | .dumpEnc a k => bufferAccess op s (s.addReadout (.enc a (s.encBytes a k)))
  | .dumpInt i k => bufferAccess op s (s.addReadout (.int i (s.intWords i k)))
  | .reset => .next (resetUnit s)
  | .pass => engineStep run s

/-- One step of the machine: the host's oldest pending action, or the engine's step if the host has none (log 7). -/
def machineStep (run : Instr → State → Result) (s : State) : Result :=
  match s.host with
  | [] => engineStep run s
  | op :: rest => hostStep run op s (s.withHost rest)

/-! ## The pseudo-operations of R92, each a list of host actions -/

/-- `ENCODE(xs, cap)`. -/
def hostEncode (xs : List Word) (cap : Nat) : List HostOp :=
  [.fillInt 0 xs, .wr 5 xs.length, .wr 4 cap, .wr 0 0x04, .wait, .rd 6]

/-- `DECODE.S(bytes, n, cap)`. -/
def hostDecodeS (bytes : List Byte) (n cap : Nat) : List HostOp :=
  [.fillEnc 0 bytes, .wr 4 bytes.length, .wr 2 n, .wr 5 cap, .wr 0 0x08, .wait, .rd 6]

/-- `DECODE.V(bytes, n, cap)`. -/
def hostDecodeV (bytes : List Byte) (n cap : Nat) : List HostOp :=
  [.fillEnc 0 bytes, .wr 4 bytes.length, .wr 2 n, .wr 5 cap, .wr 0 0x09, .wait, .rd 6]

/-- `BYTE_LENGTH(x)`. -/
def hostByteLength (x : Word) : List HostOp := [.wr 3 x.toNat, .wr 0 0x01, .wait, .rd 6]

/-- `CONTROL_STREAM_LEN(n)`. -/
def hostControlStreamLen (n : Nat) : List HostOp := [.wr 2 n, .wr 0 0x02, .wait, .rd 6]

/-- `MAX_ENCODED_LEN(n)`. -/
def hostMaxEncodedLen (n : Nat) : List HostOp := [.wr 2 n, .wr 0 0x03, .wait, .rd 6]

/-! ## Placing a word where the next step takes it (log 18) -/

/-- The unit about to start command `v`: the write to CMD is the host's oldest pending action, the unit is not busy, and the
operand registers count as written with the values they hold. -/
def placeCommand (v : Byte) (s : State) : State :=
  { s with
    host := .wr 0 v.toNat :: s.host
    phase := if s.busy then .idle else s.phase
    nWritten := true
    xWritten := true
    encLenWritten := true
    intLenWritten := true }

/-- The unit about to execute control byte `c`: a scalar decode of four integers whose one control byte is `c`, its cursors as
the start step leaves them and its buffers just long enough, the host waiting for the end. -/
def placeQuad (c : Byte) (s : State) : State :=
  { s.latch 4 .scalar .scalarTail with
    ENC := Memory.write s.ENC 0 c
    ENC_LEN := controlStreamLen 4 + quadLen c 4
    INT_LEN := 4
    host := .wait :: s.host }

/-- Place the table's word `w` for the next step: a command by the host's write, a control byte in the control stream. -/
def placeWord (nbits w : Nat) (s : State) : State :=
  match decodeTableWord nbits w with
  | some i => if i.isCommand then placeCommand (encode i) s else placeQuad (encode i) s
  | none => s

end Sys2Proof.Machine
end

