-- ==== Sys2Proof/Machine/Step.lean ====
section
/-! DEFINITION. Machine/Step.lean: one step of the machine, and where the next instruction's word stands. -/

namespace Sys2Proof.Machine

/-- One step: the host's oldest pending action or, where it has none, the engine's step (45_driver.md R162, R164). -/
def step (s : State) : Host.Outcome State Fault Refusal := machineStep exec s

/-- `s` with the table's word placed so that the very next step runs it (log 18). -/
def State.withFetchWord (s : State) (nbits w : Nat) : State := placeWord nbits w s

end Sys2Proof.Machine
end

