-- ==== Sys2Proof/Safety.lean ====
section
/-! DEFINITION. Safety.lean: what a safe state is (10_state.md R37 and the registers' widths) and what it means to run one
command, in the terms the statements use. -/

namespace Sys2Proof.Machine

/-- The payload bytes the encoder has written when `k` integers are done (10_state.md R37). -/
def State.encodedBytes (s : State) (k : Nat) : Nat := ((List.range k).map fun i => byteLength (s.intWord i)).sum

/-- The payload bytes the decoder has consumed when `k` quads are done (R37): each quad counts the fields of the integers it
holds, 4 or fewer (30_encoding.md R88). -/
def State.decodedBytes (s : State) (k : Nat) : Nat :=
  ((List.range k).map fun q => quadLen (s.encByte q) (quadSize (s.n - 4 * q))).sum

/-- Where the cursors stand while busy, between steps (R37). R37's `oc = 4 * cc` is said of "every step but the last": after a
trailing partial quad `oc` is `n` (log 19), so it is stated as `oc = min (4 * cc) n`. -/
structure State.CursorsOk (s : State) : Prop where
  oc_eq : s.oc = min (4 * s.cc) s.n
  rem_eq : s.rem = s.n - s.oc
  cc_le : s.cc ≤ controlStreamLen s.n
  data_le : controlStreamLen s.n ≤ s.dc
  dc_le : s.dc ≤ s.ENC_LEN

/-- While encoding: the start check of R121 has passed and `dc` counts the bytes written. -/
structure State.EncodingOk (s : State) : Prop where
  count : s.n = s.INT_LEN
  fits : maxEncodedLen s.n ≤ s.ENC_LEN
  dc_eq : s.dc = controlStreamLen s.n + s.encodedBytes s.oc

/-- While decoding: the start checks of R131 have passed and `dc` counts the bytes consumed. -/
structure State.DecodingOk (s : State) : Prop where
  fits : s.n ≤ s.INT_LEN
  enough : controlStreamLen s.n + s.n ≤ s.ENC_LEN
  dc_eq : s.dc = controlStreamLen s.n + s.decodedBytes s.cc

/-- Every AW-bit register holds a value below `2 ^ aw`, and AW is at least 8 (00_scope.md R6, R7). -/
structure State.WidthsOk (s : State) : Prop where
  aw_ge : 8 ≤ s.aw
  N_lt : s.N < 2 ^ s.aw
  ENC_LEN_lt : s.ENC_LEN < 2 ^ s.aw
  INT_LEN_lt : s.INT_LEN < 2 ^ s.aw
  RESULT_lt : s.RESULT < 2 ^ s.aw
  ERR_EXPECTED_lt : s.ERR_EXPECTED < 2 ^ s.aw
  ERR_AVAILABLE_lt : s.ERR_AVAILABLE < 2 ^ s.aw
  n_lt : s.n < 2 ^ s.aw
  cc_lt : s.cc < 2 ^ s.aw
  dc_lt : s.dc < 2 ^ s.aw
  oc_lt : s.oc < 2 ^ s.aw
  rem_lt : s.rem < 2 ^ s.aw

/-- A memory in its canonical form, with no cell outside the offsets AW bits can name (20_memory.md R51, R52). -/
structure Memory.Ok {α : Type} (aw : Nat) (m : Memory α) : Prop where
  rising : Memory.wf m
  inside : ∀ e ∈ m, e.1 < 2 ^ aw

/-- The invariant of the machine. -/
structure State.Inv (s : State) : Prop where
  widths : s.WidthsOk
  encMem : Memory.Ok s.aw s.ENC
  intMem : Memory.Ok s.aw s.INT
  /-- ERRCODE is non-zero exactly when PHASE = ERROR (10_state.md R24). -/
  err_iff : s.errCode.isSome = true ↔ s.phase = .error
  cursors : s.busy = true → s.CursorsOk
  encoding : s.phase = .encRun → s.EncodingOk
  decoding : s.phase = .simdBulk ∨ s.phase = .scalarTail → s.DecodingOk
  /-- The bulk loop runs only for the SIMD strategy (43_scalar_decoder.md R131). -/
  bulk : s.phase = .simdBulk → s.strat = .simd

/-- `s` with the write of command `v` to `CMD` as the host's one pending action. -/
def State.withCommand (s : State) (v : Nat) : State := s.withHost [.wr 0 v]

/-- The phases a host write of `v` to `CMD` can lead to (45_driver.md R162). -/
def startPhases (v : Nat) : List Phase :=
  if v = 0x01 ∨ v = 0x02 then [.done]
  else if v = 0x03 then [.done, .error]
  else if v = 0x04 then [.encRun, .error]
  else if v = 0x08 then [.scalarTail, .error]
  else if v = 0x09 then [.simdBulk, .error]
  else [.error]

/-- The error codes a host write of `v` to `CMD` can end with at once (45_driver.md R162). -/
def startErrors (v : Nat) : List ErrorKind :=
  if v = 0x01 ∨ v = 0x02 then []
  else if v = 0x03 then [.contract]
  else if v = 0x04 then [.capacity]
  else if v = 0x08 ∨ v = 0x09 then [.contract, .capacity]
  else [.illegalCmd]

/-- Run `k` steps of the machine. -/
def runSteps (k : Nat) (s : State) : Result := Host.Core.run Sys2Proof.core k s

end Sys2Proof.Machine
end

