-- ==== Sys2Proof/Certificates/Slice0/Obligations.lean ====
section
/-! DEFINITION. Certificates/Slice0/Obligations.lean: the statements for the provers, from the numbered rules of spec/. -/

open Sys2Proof Sys2Proof.Machine

/-! ## Encodings (30_encoding.md) -/

/-- R82: the six command words decode to their commands and every other value is illegal. -/
def Obligations.CommandWordsDecodeAsListed : Prop :=
  decodeCmd 0x01 = .ok .blen ∧ decodeCmd 0x02 = .ok .clen ∧ decodeCmd 0x03 = .ok .mlen ∧
  decodeCmd 0x04 = .ok .enc ∧ decodeCmd 0x08 = .ok .decS ∧ decodeCmd 0x09 = .ok .decV ∧
  ∀ v : Byte, v ∉ [0x01, 0x02, 0x03, 0x04, 0x08, 0x09] → decodeCmd v = .error (.illegalOpcode v)

/-- The control words that 95_test_vectors.md writes out bit by bit decode to their four fields, low field first. -/
def Obligations.ControlWordsDecodeByFields : Prop :=
  decodeCtrl 0b11100100 = .quad 0 1 2 3 ∧ decodeCtrl 0b01000000 = .quad 0 0 0 1 ∧
  decodeCtrl 0b00000101 = .quad 1 1 0 0 ∧ decodeCtrl 0b00101001 = .quad 1 2 2 0 ∧
  decodeCtrl 0b00111110 = .quad 2 3 3 0

/-- R84, R85: a control byte is `b0 + 4*b1 + 16*b2 + 64*b3`, and field `b_i` means `b_i + 1` bytes. -/
def Obligations.ControlByteIsItsFields : Prop :=
  ∀ (c : Byte) (b0 b1 b2 b3 : BitVec 2), decodeCtrl c = .quad b0 b1 b2 b3 →
    c.toNat = b0.toNat + 4 * b1.toNat + 16 * b2.toNat + 64 * b3.toNat ∧
    ctrlLen c 0 = b0.toNat + 1 ∧ ctrlLen c 1 = b1.toNat + 1 ∧
    ctrlLen c 2 = b2.toNat + 1 ∧ ctrlLen c 3 = b3.toNat + 1

/-- Decoding the word of a well-formed instruction, in its own format, gives it back, and whatever decodes is the word of
what it decodes to. -/
def Obligations.DecodingInvertsEncoding : Prop :=
  (∀ i : Instr, i.wellFormed = true → decodeAs i.isCommand (encode i) = .ok i) ∧
  ∀ (command : Bool) (w : Byte) (i : Instr), decodeAs command w = .ok i → encode i = w ∧ i.isCommand = command

/-! ## Format primitives (40_format_primitives.md) -/

/-- `byte_length(x)` is the least `L >= 1` with `x < 2^(8L)`, and `max(1, ceil(bits_required(x) / 8))`
(40_format_primitives.md section 1; that `bits_required` counts the digits of the binary numeral is the spec's own general
knowledge, log 22). -/
def Obligations.ByteLengthIsMinimal : Prop :=
  ∀ x : Word,
    1 ≤ byteLength x ∧ byteLength x ≤ 4 ∧ x.toNat < 2 ^ (8 * byteLength x) ∧
    (∀ l, 1 ≤ l → x.toNat < 2 ^ (8 * l) → byteLength x ≤ l) ∧
    byteLength x = max 1 ((bitsRequired x + 7) / 8)

/-- R102: `control_stream_len(n)` is the ceiling of `n / 4`, the least `C` with `n <= 4*C`. -/
def Obligations.ControlStreamLenIsCeiling : Prop :=
  ∀ n : Nat, n ≤ 4 * controlStreamLen n ∧ ∀ k, n ≤ 4 * k → controlStreamLen n ≤ k

/-- R105: `ctrl_len` reads one 2-bit field plus 1 and is the inverse of `ctrl_pack`. -/
def Obligations.LengthCodesUnpack : Prop :=
  (∀ (c : Byte) (i : Nat), i < 4 → ctrlLen c i = c.toNat / 4 ^ i % 4 + 1) ∧
  ∀ l0 l1 l2 l3 : Nat, 1 ≤ l0 → l0 ≤ 4 → 1 ≤ l1 → l1 ≤ 4 → 1 ≤ l2 → l2 ≤ 4 → 1 ≤ l3 → l3 ≤ 4 →
    ctrlLen (ctrlPack l0 l1 l2 l3) 0 = l0 ∧ ctrlLen (ctrlPack l0 l1 l2 l3) 1 = l1 ∧
    ctrlLen (ctrlPack l0 l1 l2 l3) 2 = l2 ∧ ctrlLen (ctrlPack l0 l1 l2 l3) 3 = l3

/-- `quad_len(c, r)` (40_format_primitives.md, "`quad_len(c, r) = sum for i < r of ctrl_len(c, i)`", marked derived
there) sums the first `r` lengths, lies in `r .. 4r`, and is `PTAB[c]` for `r = 4`. -/
def Obligations.QuadLenSumsLengths : Prop :=
  ∀ (c : Byte) (r : Nat), 1 ≤ r → r ≤ 4 →
    quadLen c r = ((List.range r).map (ctrlLen c)).sum ∧ r ≤ quadLen c r ∧ quadLen c r ≤ 4 * r ∧
    quadLen c 4 = ptab c

/-- R89: an integer is the little-endian number of its payload's bytes, and a payload is the integer's low bytes. -/
def Obligations.PayloadIsLittleEndian : Prop :=
  (∀ (f : Nat → Byte) (d l : Nat), 1 ≤ l → l ≤ 4 →
    (assemble f d l).toNat = ((List.range l).map fun j => 256 ^ j * (f (d + j)).toNat).sum) ∧
  ∀ x : Word, (payload x).length = byteLength x ∧
    ∀ (j : Nat) (h : j < (payload x).length), ((payload x)[j]).toNat = x.toNat / 256 ^ j % 256

/-! ## The tables and the shuffle (41_shuffle_table.md) -/

/-- R112, R113: the generator: entry by entry, and the payload length as a sum of the fields. -/
def Obligations.TableIsGenerated : Prop :=
  ∀ c : Byte,
    (∀ i j, i < 4 → j < 4 → vecByte (mtab c) (4 * i + j) =
      if j < c.toNat / 4 ^ i % 4 + 1 then
        BitVec.ofNat 8 (((List.range i).map fun m => c.toNat / 4 ^ m % 4 + 1).sum + j)
      else 0x80) ∧
    ptab c = 4 + c.toNat % 4 + c.toNat / 4 % 4 + c.toNat / 16 % 4 + c.toNat / 64 % 4

/-- The facts about the tables that 41_shuffle_table.md lists as "Facts about the tables that follow" (marked derived
there). -/
def Obligations.TableFacts : Prop :=
  (∀ c : Byte,
    (∀ k < 16, vecByte (mtab c) k = 0x80 ∨ (vecByte (mtab c) k).toNat ≤ 15) ∧
    (∀ k < 16, vecByte (mtab c) k = 0x0F → ptab c = 16 ∧ c = 0xFF) ∧
    (∀ i < 4, vecByte (mtab c) (4 * i) ≠ 0x80) ∧ vecByte (mtab c) 0 = 0 ∧
    ((List.range 16).map (vecByte (mtab c))).filter (fun b => b != 0x80) =
      (List.range (ptab c)).map (BitVec.ofNat 8) ∧
    (((List.range 16).map (vecByte (mtab c))).filter (fun b => b == 0x80)).length = 16 - ptab c ∧
    (∀ c' : Byte, mtab c = mtab c' → c = c') ∧
    (ptab c = 4 ↔ c = 0x00) ∧ (ptab c = 16 ↔ c = 0xFF)) ∧
  (List.range 13).map (fun k => ((List.range 256).filter fun c => ptab (BitVec.ofNat 8 c) == k + 4).length) =
    [1, 4, 10, 20, 31, 40, 44, 40, 31, 20, 10, 4, 1]

/-- The byte shuffle, byte by byte. That a selector with bit 7 clear selects by its low 4 bits is the spec's own general
knowledge (93_implementation_defined.md G2; log 22). -/
def Obligations.ShuffleSelectsBytes : Prop :=
  ∀ (w m : V128) (k : Nat), k < 16 →
    vecByte (shuf w m) k =
      if (vecByte m k).getLsbD 7 then 0 else vecByte w ((vecByte m k).toNat % 16)

/-- "What the shuffle of a window gives" (41_shuffle_table.md, marked derived there): lane `i` of the shuffle of any
window under `MTAB[c]` is the integer of the `L_i` bytes at `S_i`, and the bytes from `PTAB[c]` on do not matter. -/
def Obligations.ShuffleAssemblesIntegers : Prop :=
  ∀ (c : Byte) (w : V128),
    (∀ i < 4, vecLane (shuf w (mtab c)) i = assemble (vecByte w) (quadLen c i) (ctrlLen c i)) ∧
    ∀ w' : V128, (∀ j < ptab c, vecByte w' j = vecByte w j) → shuf w' (mtab c) = shuf w (mtab c)

/-! ## The primitive commands -/

/-- R107: `BLEN`, whole: its result, its end, and nothing else changed. -/
def Obligations.BlenGivesByteLength : Prop :=
  ∀ s : State, s.busy = false → s.xWritten = true →
    exec .blen s = .next { s with
      RESULT := byteLength s.X, ERR_EXPECTED := 0, ERR_AVAILABLE := 0, errCode := none, phase := .done }

/-- R108: `CLEN`, whole. -/
def Obligations.ClenGivesControlLength : Prop :=
  ∀ s : State, s.busy = false → s.nWritten = true →
    exec .clen s = .next { s with
      RESULT := (s.N + 3) / 4, ERR_EXPECTED := 0, ERR_AVAILABLE := 0, errCode := none, phase := .done }

/-- R109: `MLEN`, whole: the result where it fits RESULT, CONTRACT where it does not. -/
def Obligations.MlenGivesMaximumOrContract : Prop :=
  ∀ s : State, s.busy = false → s.nWritten = true →
    ((s.N + 3) / 4 + 4 * s.N < 2 ^ s.aw →
      exec .mlen s = .next { s with
        RESULT := (s.N + 3) / 4 + 4 * s.N, ERR_EXPECTED := 0, ERR_AVAILABLE := 0, errCode := none, phase := .done }) ∧
    (2 ^ s.aw ≤ (s.N + 3) / 4 + 4 * s.N →
      exec .mlen s = .next { s with
        RESULT := 0, ERR_EXPECTED := 2 ^ s.aw - 1, ERR_AVAILABLE := 0, errCode := some .contract, phase := .error })

/-! ## The encoder (42_scalar_encoder.md) -/

/-- R121: the start step of `ENC`: the cursors where the capacity is enough, CAPACITY before any write where it is not. -/
def Obligations.EncodeStartStep : Prop :=
  ∀ s : State, s.busy = false → s.encLenWritten = true → s.intLenWritten = true →
    (maxEncodedLen s.INT_LEN ≤ s.ENC_LEN →
      exec .enc s = .next { s with
        n := s.INT_LEN, cc := 0, dc := controlStreamLen s.INT_LEN, oc := 0, rem := s.INT_LEN,
        errCode := none, phase := .encRun }) ∧
    (s.ENC_LEN < maxEncodedLen s.INT_LEN →
      exec .enc s = .next { s with
        errCode := some .capacity, ERR_EXPECTED := min (maxEncodedLen s.INT_LEN) (2 ^ s.aw - 1),
        ERR_AVAILABLE := s.ENC_LEN, RESULT := 0, phase := .error })

/-- R123: the quad step of `ENC`, full or partial: the control byte at `cc`, the payloads at `dc` upward, the cursors,
and nothing else changed. That the control region ends at or before `dc` (R66) is a premise: `State.Inv` gives it. -/
def Obligations.EncodeQuadStep : Prop :=
  ∀ s : State, s.host = [] → s.phase = .encRun → 0 < s.rem → s.cc < s.dc →
    let r := min 4 s.rem
    let lens := (s.intWords s.oc r).map byteLength
    s.oc + r ≤ s.INT_LEN → s.dc + lens.sum ≤ s.ENC_LEN →
    ∃ t, step s = .next t ∧
      t = { s with
        c := t.c, p := BitVec.ofNat 5 lens.sum, cc := s.cc + 1, dc := s.dc + lens.sum, oc := s.oc + r,
        rem := s.rem - r, ENC := t.ENC } ∧
      t.c = ctrlPack (lens.getD 0 1) (lens.getD 1 1) (lens.getD 2 1) (lens.getD 3 1) ∧
      t.encByte s.cc = t.c ∧
      (∀ i < r, ∀ j < byteLength (s.intWord (s.oc + i)),
        t.encByte (s.dc + (lens.take i).sum + j) = (s.intWord (s.oc + i)).extractLsb' (8 * j) 8) ∧
      ∀ a, a ≠ s.cc → a < s.dc ∨ s.dc + lens.sum ≤ a → t.encByte a = s.encByte a

/-- The end steps of `ENC` (R125) and of both decodes (R135): RESULT, the error registers, PHASE, nothing else. -/
def Obligations.EndStep : Prop :=
  ∀ s : State, s.host = [] → s.phase = .encRun ∨ s.phase = .scalarTail → s.rem = 0 →
    step s = .next { s with RESULT := s.dc, ERR_EXPECTED := 0, ERR_AVAILABLE := 0, phase := .done }

/-- The layout of `encode_fn(xs)` (20_memory.md R59 to R61, R127): its length; control byte `k` holds the length codes of
integers `4k .. 4k+3`, zero for the absent ones; integer `i`'s payload bytes follow those of the integers before it. -/
def Obligations.EncodedStreamLayout : Prop :=
  ∀ xs : List Word,
    let lens := xs.map byteLength
    (encodeFn xs).length = controlStreamLen xs.length + lens.sum ∧
    (∀ k < controlStreamLen xs.length, ∃ c, (encodeFn xs)[k]? = some c ∧
      ∀ i < 4, ctrlLen c i = lens.getD (4 * k + i) 1) ∧
    ∀ (i : Nat) (x : Word), xs[i]? = some x → ∀ j < byteLength x,
      (encodeFn xs)[controlStreamLen xs.length + (lens.take i).sum + j]? = some (x.extractLsb' (8 * j) 8)

/-- The bounds on the encoded length (42_scalar_encoder.md, the laws of the encoder), with their equality cases. -/
def Obligations.EncodedLengthBounds : Prop :=
  ∀ xs : List Word,
    (encodeFn xs).length ≤ maxEncodedLen xs.length ∧
    ((encodeFn xs).length = maxEncodedLen xs.length ↔ ∀ x ∈ xs, byteLength x = 4) ∧
    controlStreamLen xs.length + xs.length ≤ (encodeFn xs).length ∧
    (controlStreamLen xs.length + xs.length = (encodeFn xs).length ↔ ∀ x ∈ xs, x.toNat < 256)

/-- The whole `ENC` command, against `encode_fn` (42_scalar_encoder.md; the one-transition table of 45_driver.md; marked
derived there): from the host's write of 0x04 it takes exactly
`2 + ceil(n/4)` steps and leaves `encode_fn` of the integers in ENC, its length in RESULT, every other cell as it was. -/
def Obligations.EncodeCommandWritesTheStream : Prop :=
  ∀ s : State, s.busy = false → s.encLenWritten = true → s.intLenWritten = true →
    maxEncodedLen s.INT_LEN ≤ s.ENC_LEN →
    let out := encodeFn (s.intWords 0 s.INT_LEN)
    (∃ u, runSteps (1 + controlStreamLen s.INT_LEN) (s.withCommand 0x04) = .next u ∧ u.phase = .encRun) ∧
    ∃ t, runSteps (2 + controlStreamLen s.INT_LEN) (s.withCommand 0x04) = .next t ∧
      t.phase = .done ∧ t.errCode = none ∧ t.RESULT = out.length ∧ t.ERR_EXPECTED = 0 ∧ t.ERR_AVAILABLE = 0 ∧
      (∀ (a : Nat) (h : a < out.length), t.encByte a = out[a]) ∧
      (∀ a, out.length ≤ a → t.encByte a = s.encByte a) ∧
      t.INT = s.INT ∧ t.N = s.N ∧ t.X = s.X ∧ t.ENC_LEN = s.ENC_LEN ∧ t.INT_LEN = s.INT_LEN ∧ t.CMD = 0x04

/-! ## The decoders (43_scalar_decoder.md, 44_simd_decoder.md) -/

/-- The start step of `DEC.S` and `DEC.V` (43_scalar_decoder.md): CONTRACT first, then CAPACITY, then the cursors. That
CONTRACT asks for `N` and `ENC_LEN` only, and is taken also where `INT_LEN` has never been written, is deduced (log 12). -/
def Obligations.DecodeStartStep : Prop :=
  ∀ s : State, s.busy = false → s.nWritten = true → s.encLenWritten = true →
    (s.ENC_LEN < controlStreamLen s.N + s.N → ∀ i ∈ [Instr.decS, Instr.decV],
      exec i s = .next { s with
        errCode := some .contract, ERR_EXPECTED := min (controlStreamLen s.N + s.N) (2 ^ s.aw - 1),
        ERR_AVAILABLE := s.ENC_LEN, RESULT := 0, phase := .error }) ∧
    (controlStreamLen s.N + s.N ≤ s.ENC_LEN → s.intLenWritten = true → s.INT_LEN < s.N → ∀ i ∈ [Instr.decS, Instr.decV],
      exec i s = .next { s with
        errCode := some .capacity, ERR_EXPECTED := min s.N (2 ^ s.aw - 1),
        ERR_AVAILABLE := s.INT_LEN, RESULT := 0, phase := .error }) ∧
    (controlStreamLen s.N + s.N ≤ s.ENC_LEN → s.intLenWritten = true → s.N ≤ s.INT_LEN →
      exec .decS s = .next { s with
        n := s.N, strat := .scalar, cc := 0, dc := controlStreamLen s.N, oc := 0, rem := s.N,
        errCode := none, phase := .scalarTail } ∧
      exec .decV s = .next { s with
        n := s.N, strat := .simd, cc := 0, dc := controlStreamLen s.N, oc := 0, rem := s.N,
        errCode := none, phase := .simdBulk })

/-- R133, R134: a control byte in SCALAR_TAIL: the integers of a full or partial quad, the cursors, nothing else; or
TRUNCATED, where `INT[n ..)` keeps its values and `INT[0 .. n)` is left open (what `c` holds then is not stated: log 20). The
control byte the engine runs is the one at `cc`. -/
def Obligations.ScalarQuadStep : Prop :=
  ∀ (s : State) (b0 b1 b2 b3 : BitVec 2), s.phase = .scalarTail → 0 < s.rem →
    let c := ctrlByte b0 b1 b2 b3
    let r := min 4 s.rem
    let need := quadLen c r
    (s.host = [] → s.cc < s.ENC_LEN → s.encByte s.cc = c → step s = exec (.quad b0 b1 b2 b3) s) ∧
    (s.dc + need ≤ s.ENC_LEN → s.oc + r ≤ s.INT_LEN →
      ∃ t, exec (.quad b0 b1 b2 b3) s = .next t ∧
        t = { s with
          c := c, p := BitVec.ofNat 5 need, cc := s.cc + 1, dc := s.dc + need, oc := s.oc + r, rem := s.rem - r,
          INT := t.INT } ∧
        (∀ i < r, t.intWord (s.oc + i) = assemble s.encByte (s.dc + quadLen c i) (ctrlLen c i)) ∧
        ∀ j, j < s.oc ∨ s.oc + r ≤ j → t.intWord j = s.intWord j) ∧
    (s.ENC_LEN < s.dc + need →
      ∃ t, exec (.quad b0 b1 b2 b3) s = .next t ∧
        t = { s with
          c := t.c, errCode := some .truncated, ERR_EXPECTED := min (s.dc + need) (2 ^ s.aw - 1),
          ERR_AVAILABLE := s.ENC_LEN, RESULT := 0, phase := .error, INT := t.INT, draws := t.draws } ∧
        ∀ j, s.n ≤ j → t.intWord j = s.intWord j)

/-- R142: a control byte in SIMD_BULK while the guard holds: mask, length, window, shuffle, store, advance. The control byte
the engine runs is the one at `cc`. -/
def Obligations.SimdIteration : Prop :=
  ∀ (s : State) (b0 b1 b2 b3 : BitVec 2), s.phase = .simdBulk → 4 ≤ s.rem → s.dc + 16 ≤ s.ENC_LEN →
    s.oc + 4 ≤ s.INT_LEN →
    let c := ctrlByte b0 b1 b2 b3
    (s.host = [] → s.cc < s.ENC_LEN → s.encByte s.cc = c → step s = exec (.quad b0 b1 b2 b3) s) ∧
    ∃ t, exec (.quad b0 b1 b2 b3) s = .next t ∧
      t = { s with
        c := c, M := mtab c, p := BitVec.ofNat 5 (ptab c), W := t.W, V := shuf t.W (mtab c),
        cc := s.cc + 1, dc := s.dc + ptab c, oc := s.oc + 4, rem := s.rem - 4, INT := t.INT } ∧
      (∀ j < 16, vecByte t.W j = s.encByte (s.dc + j)) ∧
      (∀ i < 4, t.intWord (s.oc + i) = vecLane t.V i) ∧
      ∀ j, j < s.oc ∨ s.oc + 4 ≤ j → t.intWord j = s.intWord j

/-- R143: the switch step changes PHASE and nothing else. -/
def Obligations.SwitchStep : Prop :=
  ∀ s : State, s.host = [] → s.phase = .simdBulk → ¬ (4 ≤ s.rem ∧ s.dc + 16 ≤ s.ENC_LEN) →
    step s = .next { s with phase := .scalarTail }

/-- "The guard is monotone" (44_simd_decoder.md, marked derived there): once false it stays false for the rest of the
decode. -/
def Obligations.GuardStaysFalse : Prop :=
  ∀ s t : State, step s = .next t → (∀ rest, s.host ≠ .reset :: rest) →
    s.phase = .simdBulk ∨ s.phase = .scalarTail → t.phase = .simdBulk ∨ t.phase = .scalarTail →
    guardHolds s = false → guardHolds t = false

/-- One SIMD iteration does what one scalar quad step does, vector registers apart (the reason 44_simd_decoder.md
gives for "`DEC.V` and `DEC.S` agree", marked derived there). -/
def Obligations.SimdIterationMatchesScalarQuad : Prop :=
  ∀ (s : State) (c : Byte), guardHolds s = true → s.oc + 4 ≤ s.INT_LEN →
    ∃ t u, simdQuad c s = .next t ∧ scalarQuad c s = .next u ∧ t = { u with M := t.M, W := t.W, V := t.V }

/-- "The over-read is harmless" (44_simd_decoder.md, marked derived there): the window bytes beyond the quad's payload
never matter: two states that differ in such bytes of ENC only are taken to states that differ in ENC and in the window
register only. -/
def Obligations.WindowOverreadIsHarmless : Prop :=
  ∀ (s t : State) (e : Memory Byte) (b0 b1 b2 b3 : BitVec 2), s.phase = .simdBulk →
    (∀ a, a < s.dc + ptab (ctrlByte b0 b1 b2 b3) ∨ s.dc + 16 ≤ a → State.encByte { s with ENC := e } a = s.encByte a) →
    exec (.quad b0 b1 b2 b3) s = .next t →
    ∃ u, exec (.quad b0 b1 b2 b3) { s with ENC := e } = .next u ∧ u = { t with W := u.W, ENC := e }

/-- The decoder's half of "Partial control byte" (30_encoding.md): in a partial quad of `r` integers the fields from `r`
on do not matter. Where the quad is truncated, that the two runs leave the same values in `INT[0 .. n)` holds only by the way
the model indexes its draws, by a counter (log 5); the spec leaves those values open. -/
def Obligations.PartialQuadIgnoresHighFields : Prop :=
  ∀ (s t : State) (b0 b1 b2 b1' b2' b3 b3' : BitVec 2), s.phase = .scalarTail → 0 < s.rem → s.rem < 4 →
    (1 < s.rem → b1' = b1) → (2 < s.rem → b2' = b2) →
    exec (.quad b0 b1 b2 b3) s = .next t →
    ∃ u, exec (.quad b0 b1' b2' b3') s = .next u ∧ u = { t with c := u.c }

/-- The whole `DEC.S` and `DEC.V` commands, against `decode_fn` (43_scalar_decoder.md; the one-transition table of
45_driver.md; both marked derived there; the order of errors is that of 60_exceptions.md): within `3 + ceil(n/4)` steps
from the host's write they end as `decode_fn` says. -/
def Obligations.DecodeCommandsMeetDecodeFn : Prop :=
  ∀ (s : State) (v : Nat), v = 0x08 ∨ v = 0x09 → s.busy = false → s.decodeOperandsWritten = true →
    ∃ t, runSteps (3 + controlStreamLen s.N) (s.withCommand v) = .next t ∧
      t.ENC = s.ENC ∧ t.N = s.N ∧ t.X = s.X ∧ t.ENC_LEN = s.ENC_LEN ∧ t.INT_LEN = s.INT_LEN ∧
      (∀ j, s.N ≤ j → t.intWord j = s.intWord j) ∧
      if s.ENC_LEN < controlStreamLen s.N + s.N then
        t.phase = .error ∧ t.errCode = some .contract ∧ t.RESULT = 0 ∧ t.INT = s.INT ∧
        t.ERR_EXPECTED = min (controlStreamLen s.N + s.N) (2 ^ s.aw - 1) ∧ t.ERR_AVAILABLE = s.ENC_LEN
      else if s.INT_LEN < s.N then
        t.phase = .error ∧ t.errCode = some .capacity ∧ t.RESULT = 0 ∧ t.INT = s.INT ∧
        t.ERR_EXPECTED = min s.N (2 ^ s.aw - 1) ∧ t.ERR_AVAILABLE = s.INT_LEN
      else
        match decodeFn s.encByte s.ENC_LEN s.N with
        | .ok (xs, len) =>
          t.phase = .done ∧ t.errCode = none ∧ t.RESULT = len ∧ t.ERR_EXPECTED = 0 ∧ t.ERR_AVAILABLE = 0 ∧
          xs = t.intWords 0 s.N
        | .error (.truncated e) =>
          t.phase = .error ∧ t.errCode = some .truncated ∧ t.RESULT = 0 ∧
          t.ERR_EXPECTED = min e (2 ^ s.aw - 1) ∧ t.ERR_AVAILABLE = s.ENC_LEN
        | .error (.contract _) => False

/-- "`DEC.V` and `DEC.S` agree" (44_simd_decoder.md; the law is the source's, its form here is marked derived there): for
every content of ENC and all operand values, `DEC.V` and `DEC.S` end in the same phase, on DONE with the same
integers and RESULT, on ERROR with the same error registers. -/
def Obligations.SimdDecodeEqualsScalarDecode : Prop :=
  ∀ s : State, s.busy = false → s.decodeOperandsWritten = true →
    ∃ t u, runSteps (3 + controlStreamLen s.N) (s.withCommand 0x08) = .next t ∧
      runSteps (3 + controlStreamLen s.N) (s.withCommand 0x09) = .next u ∧
      t.ended = true ∧ u.phase = t.phase ∧ u.errCode = t.errCode ∧ u.RESULT = t.RESULT ∧
      u.ERR_EXPECTED = t.ERR_EXPECTED ∧ u.ERR_AVAILABLE = t.ERR_AVAILABLE ∧
      (t.phase = .done → ∀ i, u.intWord i = t.intWord i)

/-- Round trip (the laws of 42_scalar_encoder.md and 43_scalar_decoder.md): decoding an encoded stream with its count
gives the integers back and consumes exactly the stream, whatever bytes follow it in the buffer. -/
def Obligations.DecodeInvertsEncode : Prop :=
  ∀ (xs : List Word) (tail : List Byte),
    decodeFn (fun a => (encodeFn xs ++ tail).getD a 0) (encodeFn xs ++ tail).length xs.length =
      .ok (xs, (encodeFn xs).length)

/-- Bytes of ENC past the stream never change a decode (20_memory.md section 5, marked derived there): a decode that
succeeds gives the same on every buffer that agrees with this one on the bytes consumed. -/
def Obligations.TrailingBytesAreIgnored : Prop :=
  ∀ (f g : Nat → Byte) (len len' n e : Nat) (xs : List Word), decodeFn f len n = .ok (xs, e) →
    (∀ a < e, g a = f a) → e ≤ len' → decodeFn g len' n = .ok (xs, e)

/-! ## Errors (60_exceptions.md) -/

/-- R186: the entry of an error: what it records and what it leaves alone. -/
def Obligations.ErrorEntry : Prop :=
  ∀ (k : ErrorKind) (expected available : Nat) (s : State),
    let t := raise k expected available s
    t = { s with
      errCode := some k, ERR_EXPECTED := min expected (2 ^ s.aw - 1), ERR_AVAILABLE := available, RESULT := 0,
      phase := .error, INT := t.INT, draws := t.draws } ∧
    (k ≠ .truncated → t.INT = s.INT ∧ t.draws = s.draws) ∧
    ∀ j, s.n ≤ j → t.intWord j = s.intWord j

/-- A command that ends with an error in its first step leaves everything but STATUS, RESULT and the error registers as it
was ("Precision", 60_exceptions.md section 3, marked derived there; CMD is the host's write, made before). -/
def Obligations.StartErrorsArePrecise : Prop :=
  ∀ (i : Instr) (s t : State), i.isCommand = true → exec i s = .next t → t.phase = .error →
    t = { s with
      errCode := t.errCode, ERR_EXPECTED := t.ERR_EXPECTED, ERR_AVAILABLE := t.ERR_AVAILABLE, RESULT := 0,
      phase := .error } ∧ t.errCode.isSome = true

/-- R184: a write of an opcode that R82 does not list ends in ERROR, ILLEGAL_CMD, with CMD holding the written value and
nothing else changed. -/
def Obligations.IllegalCommandWrite : Prop :=
  ∀ (s : State) (v : Nat) (rest : List HostOp), s.host = .wr 0 v :: rest → s.busy = false → v < 256 →
    v ∉ [0x01, 0x02, 0x03, 0x04, 0x08, 0x09] →
    step s = .next { s with
      host := rest, CMD := BitVec.ofNat 8 v, errCode := some .illegalCmd, ERR_EXPECTED := 0, ERR_AVAILABLE := 0,
      RESULT := 0, phase := .error }

/-- A command that reads an operand register the host has not written since reset is refused (10_state.md section 8). A decode
reads `INT_LEN` only where CONTRACT does not apply (43_scalar_decoder.md, start step; log 12); where it applies,
`DecodeStartStep` says what happens. -/
def Obligations.UnwrittenOperandIsRefused : Prop :=
  ∀ s : State, s.busy = false →
    (s.xWritten = false → exec .blen s = .refused .operandNeverWritten) ∧
    (s.nWritten = false → exec .clen s = .refused .operandNeverWritten ∧ exec .mlen s = .refused .operandNeverWritten) ∧
    (s.encLenWritten = false ∨ s.intLenWritten = false → exec .enc s = .refused .operandNeverWritten) ∧
    (s.nWritten = false ∨ s.encLenWritten = false ∨
        (s.intLenWritten = false ∧ controlStreamLen s.N + s.N ≤ s.ENC_LEN) →
      exec .decS s = .refused .operandNeverWritten ∧ exec .decV s = .refused .operandNeverWritten)

/-- While busy (70_reset_and_hazards.md section 2), every write to a register of the unit and every access to ENC or INT
by the host is refused, and STATUS can be read. That a refusal is what a model gives such a run is the spec's own advice
(log 11). A write to a number from 9 up, which is no register, is ignored as ever (10_state.md section 2; log 27). The
other busy reads are `BusyReadsAnswer`. -/
def Obligations.BusyHostAccessIsRefused : Prop :=
  ∀ (s : State) (rest : List HostOp), s.busy = true →
    (∀ r v, s.host = .wr r v :: rest → r ≤ 8 → step s = .refused .hostAccessWhileBusy) ∧
    (∀ r v, s.host = .wr r v :: rest → 9 ≤ r → step s = .next { s with host := rest }) ∧
    (∀ a bs, s.host = .fillEnc a bs :: rest → step s = .refused .hostAccessWhileBusy) ∧
    (∀ i xs, s.host = .fillInt i xs :: rest → step s = .refused .hostAccessWhileBusy) ∧
    (∀ a k, s.host = .dumpEnc a k :: rest → step s = .refused .hostAccessWhileBusy) ∧
    (∀ i k, s.host = .dumpInt i k :: rest → step s = .refused .hostAccessWhileBusy) ∧
    (s.host = .rd 1 :: rest →
      step s = .next { s with host := rest, readouts := .reg 1 s.statusWord.toNat :: s.readouts }) ∧
    ∀ i : Instr, i.isCommand = true → exec i s = .refused .hostAccessWhileBusy

/-- A control byte executed where the phase machine has no quad step is refused: the model's choice (log 17). -/
def Obligations.ControlByteOutOfTurnIsRefused : Prop :=
  ∀ (s : State) (b0 b1 b2 b3 : BitVec 2),
    ¬ (s.phase = .simdBulk ∧ 4 ≤ s.rem ∧ s.dc + 16 ≤ s.ENC_LEN) → ¬ (s.phase = .scalarTail ∧ 0 < s.rem) →
    exec (.quad b0 b1 b2 b3) s = .refused .noQuadDue

/-! ## Registers, STATUS, reset (10_state.md, 70_reset_and_hazards.md) -/

/-- R24: STATUS as the host reads it: PHASE in bits 2:0, ERRCODE in bits 6:4, bits 3 and 7 zero, and in every state that
meets the invariant ERRCODE is non-zero exactly when PHASE is ERROR; the phases that are busy and those that are ended;
a host write changes nothing. -/
def Obligations.StatusLayout : Prop :=
  ∀ s : State,
    (s.statusWord.extractLsb' 0 3).toNat =
      (match s.phase with
        | .idle => 0
        | .encRun => 1
        | .simdBulk => 2
        | .scalarTail => 3
        | .done => 4
        | .error => 5) ∧
    (s.statusWord.extractLsb' 4 3).toNat =
      (match s.errCode with
        | none => 0
        | some .capacity => 1
        | some .truncated => 2
        | some .contract => 3
        | some .illegalCmd => 4) ∧
    s.statusWord.getLsbD 3 = false ∧ s.statusWord.getLsbD 7 = false ∧
    (s.Inv → ((s.statusWord.extractLsb' 4 3).toNat ≠ 0 ↔ (s.statusWord.extractLsb' 0 3).toNat = 5)) ∧
    (s.busy = true ↔ s.phase ∈ [.encRun, .simdBulk, .scalarTail]) ∧ (s.ended = true ↔ s.phase ∈ [.done, .error]) ∧
    ∀ v rest, s.host = .wr 1 v :: rest → s.busy = false → step s = .next { s with host := rest }

/-- The register file (10_state.md section 2) as the host sees it while the unit is not busy: which writes store, which are
ignored, which do not fit and are refused (log 13), and what every read returns; an operand nobody has written reads as some
value of the register's width (log 2). -/
def Obligations.RegisterFile : Prop :=
  ∀ (s : State) (rest : List HostOp), s.busy = false →
    (∀ v, s.host = .wr 2 v :: rest → v < 2 ^ s.aw →
      step s = .next { s with host := rest, N := v, nWritten := true }) ∧
    (∀ v, s.host = .wr 3 v :: rest → v < 2 ^ 32 →
      step s = .next { s with host := rest, X := BitVec.ofNat 32 v, xWritten := true }) ∧
    (∀ v, s.host = .wr 4 v :: rest → v < 2 ^ s.aw →
      step s = .next { s with host := rest, ENC_LEN := v, encLenWritten := true }) ∧
    (∀ v, s.host = .wr 5 v :: rest → v < 2 ^ s.aw →
      step s = .next { s with host := rest, INT_LEN := v, intLenWritten := true }) ∧
    (∀ r v, s.host = .wr r v :: rest → r = 1 ∨ 6 ≤ r → step s = .next { s with host := rest }) ∧
    (∀ r v, s.host = .wr r v :: rest →
      (r = 0 ∧ 2 ^ 8 ≤ v) ∨ (r = 3 ∧ 2 ^ 32 ≤ v) ∨ ((r = 2 ∨ r = 4 ∨ r = 5) ∧ 2 ^ s.aw ≤ v) →
      step s = .refused .hostValueTooWide) ∧
    (∀ r, s.host = .rd r :: rest → (r = 2 → s.nWritten = true) → (r = 3 → s.xWritten = true) →
      (r = 4 → s.encLenWritten = true) → (r = 5 → s.intLenWritten = true) →
      step s = .next { s with
        host := rest
        readouts := .reg r ([s.CMD.toNat, s.statusWord.toNat, s.N, s.X.toNat, s.ENC_LEN, s.INT_LEN, s.RESULT,
          s.ERR_EXPECTED, s.ERR_AVAILABLE].getD r 0) :: s.readouts }) ∧
    ∀ r, s.host = .rd r :: rest → (r = 2 ∧ s.nWritten = false) ∨ (r = 3 ∧ s.xWritten = false) ∨
      (r = 4 ∧ s.encLenWritten = false) ∨ (r = 5 ∧ s.intLenWritten = false) →
      ∃ v, v < 2 ^ (if r = 3 then 32 else s.aw) ∧
        step s = .next { s with host := rest, readouts := .reg r v :: s.readouts, draws := s.draws + 1 }

/-- The state after reset (10_state.md section 8), for every width: the values given there, no operand register written, and
no buffer cell listed. The last clause is the model's choice (log 4): the spec gives the buffers no value, and a cell that is
not listed holds a free one. -/
def Obligations.ResetValues : Prop :=
  ∀ aw : Nat,
    let s := State.resetWith aw
    s.statusWord = 0 ∧ s.phase = .idle ∧ s.errCode = none ∧ s.CMD = 0 ∧ s.RESULT = 0 ∧ s.ERR_EXPECTED = 0 ∧
    s.ERR_AVAILABLE = 0 ∧ s.nWritten = false ∧ s.xWritten = false ∧ s.encLenWritten = false ∧
    s.intLenWritten = false ∧ s.ENC = [] ∧ s.INT = []

/-- The reset input (70_reset_and_hazards.md section 1), in any state: the registers that 10_state.md section 8 gives a
value, the operand registers unwritten again, the buffers untouched but for the destination of a running command. That
reset while busy has a next state is the model's choice (log 21), and so is that the step after it, the host's list
being empty, is a stutter (log 9). -/
def Obligations.ResetEvent : Prop :=
  ∀ (s : State) (rest : List HostOp), s.host = .reset :: rest →
    ∃ t, step s = .next t ∧ t.phase = .idle ∧ t.errCode = none ∧ t.CMD = 0 ∧ t.RESULT = 0 ∧ t.ERR_EXPECTED = 0 ∧
      t.ERR_AVAILABLE = 0 ∧ t.nWritten = false ∧ t.xWritten = false ∧ t.encLenWritten = false ∧
      t.intLenWritten = false ∧ t.aw = s.aw ∧ t.host = rest ∧ (rest = [] → step t = .next t) ∧
      (s.busy = false → t.ENC = s.ENC ∧ t.INT = s.INT) ∧
      (s.phase = .encRun → t.INT = s.INT ∧ ∀ a, maxEncodedLen s.n ≤ a → t.encByte a = s.encByte a) ∧
      (s.phase = .simdBulk ∨ s.phase = .scalarTail → t.ENC = s.ENC ∧ ∀ i, s.n ≤ i → t.intWord i = s.intWord i)

/-! ## The step (45_driver.md) -/

/-- A step runs the decoded command (R160, R23): the host's write of a command word to CMD while not busy stores it and runs
the command's meaning. -/
def Obligations.StepRunsTheCommand : Prop :=
  ∀ (s : State) (v : Nat) (i : Instr) (rest : List HostOp), s.host = .wr 0 v :: rest → s.busy = false → v < 256 →
    decodeCmd (BitVec.ofNat 8 v) = .ok i →
    step s = exec i { s with host := rest, CMD := BitVec.ofNat 8 v }

/-- A step runs the decoded control byte (20_memory.md R65): while decoding, where a quad step is due, the step is the
meaning of the control byte at `cc`, whether the host does nothing, waits, or lets one step pass. -/
def Obligations.StepRunsTheControlByte : Prop :=
  ∀ s : State, quadDue s = true → s.cc < s.ENC_LEN →
    (s.host = [] → step s = exec (decodeCtrl (s.encByte s.cc)) s) ∧
    (∀ rest, s.host = .wait :: rest → step s = exec (decodeCtrl (s.encByte s.cc)) s) ∧
    ∀ rest, s.host = .pass :: rest → step s = exec (decodeCtrl (s.encByte s.cc)) (s.withHost rest)

/-- R162: every transition of PHASE: the reset input, a command's start with the error codes it can end with, the
engine's rows, and otherwise none: STATUS stays as it was under a host read or a write to no register, or while not busy
under any action but these. -/
def Obligations.PhaseMovesOnlyAsListed : Prop :=
  ∀ s t : State, step s = .next t →
    ((∃ rest, s.host = .reset :: rest) ∧ t.phase = .idle) ∨
    (∃ v rest, s.host = .wr 0 v :: rest ∧ s.busy = false ∧ t.phase ∈ startPhases v ∧
      (t.phase = .error → ∃ k ∈ startErrors v, t.errCode = some k)) ∨
    ((s.host = [] ∨ (∃ rest, s.host = .wait :: rest) ∨ ∃ rest, s.host = .pass :: rest) ∧
      ((s.phase = .encRun ∧ 0 < s.rem ∧ t.phase = .encRun) ∨
        (s.phase = .encRun ∧ s.rem = 0 ∧ t.phase = .done) ∨
        (s.phase = .simdBulk ∧ (4 ≤ s.rem ∧ s.dc + 16 ≤ s.ENC_LEN) ∧ t.phase = .simdBulk) ∨
        (s.phase = .simdBulk ∧ ¬ (4 ≤ s.rem ∧ s.dc + 16 ≤ s.ENC_LEN) ∧ t.phase = .scalarTail) ∨
        (s.phase = .scalarTail ∧ 0 < s.rem ∧
          s.dc + quadLen (s.encByte s.cc) (min 4 s.rem) ≤ s.ENC_LEN ∧ t.phase = .scalarTail) ∨
        (s.phase = .scalarTail ∧ 0 < s.rem ∧
          s.ENC_LEN < s.dc + quadLen (s.encByte s.cc) (min 4 s.rem) ∧ t.phase = .error ∧
          t.errCode = some .truncated) ∨
        (s.phase = .scalarTail ∧ s.rem = 0 ∧ t.phase = .done))) ∨
    (t.phase = s.phase ∧ t.errCode = s.errCode ∧
      ((∃ r rest, s.host = .rd r :: rest) ∨ (∃ r v rest, s.host = .wr r v :: rest ∧ 9 ≤ r) ∨
        (s.busy = false ∧ (∀ v rest, s.host ≠ .wr 0 v :: rest) ∧ ∀ rest, s.host ≠ .reset :: rest)))

/-- With no action of the host pending and no command running, a step changes nothing: the model's stutter (log 9) for
"states in which the engine does nothing" (60_exceptions.md section 6). -/
def Obligations.IdleEngineDoesNothing : Prop :=
  ∀ s : State, s.host = [] → s.busy = false → step s = .next s

/-- Only a host write or the reset input changes an operand register or CMD (10_state.md R23, R25 to R27: "Never written by
the engine"), and nothing changes the parameter AW. -/
def Obligations.OperandsAreTheHosts : Prop :=
  ∀ s t : State, step s = .next t → t.aw = s.aw ∧
    ((∀ r v rest, s.host ≠ .wr r v :: rest) → (∀ rest, s.host ≠ .reset :: rest) →
      t.CMD = s.CMD ∧ t.N = s.N ∧ t.X = s.X ∧ t.ENC_LEN = s.ENC_LEN ∧ t.INT_LEN = s.INT_LEN ∧
      t.nWritten = s.nWritten ∧ t.xWritten = s.xWritten ∧ t.encLenWritten = s.encLenWritten ∧
      t.intLenWritten = s.intLenWritten)

/-- RESULT and the error registers change only when a command ends (R28, R29) or at reset, and an error leaves RESULT 0. -/
def Obligations.ResultChangesOnlyAtTheEnd : Prop :=
  ∀ s t : State, step s = .next t → (∀ rest, s.host ≠ .reset :: rest) →
    t.RESULT ≠ s.RESULT ∨ t.ERR_EXPECTED ≠ s.ERR_EXPECTED ∨ t.ERR_AVAILABLE ≠ s.ERR_AVAILABLE →
    t.ended = true ∧ (t.phase = .error → t.RESULT = 0) ∧
    (s.busy = true ∨ ∃ v rest, s.host = .wr 0 v :: rest)

/-- The engine writes only its destination (20_memory.md section 4, "No command reads the space it writes", marked derived
there): an encode never changes INT, a decode never changes ENC. -/
def Obligations.OnlyTheDestinationIsWritten : Prop :=
  ∀ s t : State, step s = .next t → (∀ rest, s.host ≠ .reset :: rest) →
    (s.phase = .encRun → t.INT = s.INT) ∧
    (s.phase = .simdBulk ∨ s.phase = .scalarTail → t.ENC = s.ENC)

/-! ## Invariants -/

/-- The invariant holds after reset, for every width AW >= 8. -/
def Obligations.ResetMeetsInvariant : Prop := ∀ aw : Nat, 8 ≤ aw → (State.resetWith aw).Inv

/-- Every step keeps the invariant: widths, canonical memories, ERRCODE, and the cursors' places
(10_state.md section 7, marked derived there; how `oc` is read after a partial quad is log 19). -/
def Obligations.StepKeepsInvariant : Prop := ∀ s t : State, s.Inv → step s = .next t → t.Inv

/-- R67: from a state that meets the invariant no step faults: no access of the engine leaves its buffer. That such an access
would show as a fault is the model's form of the Requires of MemRead and MemWrite (log 16). -/
def Obligations.NoAccessLeavesItsBuffer : Prop := ∀ (s : State) (f : Fault), s.Inv → step s ≠ .fault f

/-- While no action of the host is pending the machine never stops: from a state that meets the invariant every step answers
a next state. While busy that is the engine's progress (45_driver.md, "Steps"); while not busy it is the model's stutter
(log 9). -/
def Obligations.EngineNeverStops : Prop := ∀ s : State, s.Inv → s.host = [] → ∃ t, step s = .next t

/-- "Every command ends" (45_driver.md, marked derived there): a busy engine left alone reaches DONE or ERROR within the
control bytes left plus two steps. -/
def Obligations.EveryCommandEnds : Prop :=
  ∀ s : State, s.Inv → s.host = [] → s.busy = true →
    ∃ t, runSteps (controlStreamLen s.n - s.cc + 2) s = .next t ∧ t.ended = true

/-! ## The host's reads and its buffers (30_encoding.md section 6, 20_memory.md section 8) -/

/-- The host's register reads while busy: CMD, STATUS, a written operand and the numbers from 9 up answer as ever (log 11);
RESULT and the error registers (10_state.md: "unspecified" while busy; log 6) and an operand nobody has written (log 2)
answer some value of the register's width. No read changes anything else in the unit. -/
def Obligations.BusyReadsAnswer : Prop :=
  ∀ (s : State) (r : Nat) (rest : List HostOp), s.busy = true → s.host = .rd r :: rest →
    (r = 0 ∨ r = 1 ∨ (r = 2 ∧ s.nWritten = true) ∨ (r = 3 ∧ s.xWritten = true) ∨ (r = 4 ∧ s.encLenWritten = true) ∨
        (r = 5 ∧ s.intLenWritten = true) ∨ 9 ≤ r →
      step s = .next { s with
        host := rest
        readouts := .reg r ([s.CMD.toNat, s.statusWord.toNat, s.N, s.X.toNat, s.ENC_LEN, s.INT_LEN].getD r 0)
          :: s.readouts }) ∧
    ((r = 2 ∧ s.nWritten = false) ∨ (r = 3 ∧ s.xWritten = false) ∨ (r = 4 ∧ s.encLenWritten = false) ∨
        (r = 5 ∧ s.intLenWritten = false) ∨ (6 ≤ r ∧ r ≤ 8) →
      ∃ v, v < 2 ^ (if r = 3 then 32 else s.aw) ∧
        step s = .next { s with host := rest, readouts := .reg r v :: s.readouts, draws := s.draws + 1 })

/-- The host fills and dumps the buffers while the unit is not busy: a FILL stores its cells in ascending order and
leaves the others, a DUMP answers the cells and changes nothing, wherever the length registers stand (log 24); what
leaves the offsets that AW bits can name is refused (log 13). -/
def Obligations.HostFillsAndDumpsBuffers : Prop :=
  ∀ (s : State) (rest : List HostOp), s.busy = false →
    (∀ a bs, s.host = .fillEnc a bs :: rest → a + bs.length ≤ 2 ^ s.aw →
      ∃ t, step s = .next t ∧ t = { s with host := rest, ENC := t.ENC } ∧
        (∀ (j : Nat) (h : j < bs.length), t.encByte (a + j) = bs[j]) ∧
        ∀ b, b < a ∨ a + bs.length ≤ b → t.encByte b = s.encByte b) ∧
    (∀ i xs, s.host = .fillInt i xs :: rest → i + xs.length ≤ 2 ^ s.aw →
      ∃ t, step s = .next t ∧ t = { s with host := rest, INT := t.INT } ∧
        (∀ (j : Nat) (h : j < xs.length), t.intWord (i + j) = xs[j]) ∧
        ∀ k, k < i ∨ i + xs.length ≤ k → t.intWord k = s.intWord k) ∧
    (∀ a k, s.host = .dumpEnc a k :: rest → a + k ≤ 2 ^ s.aw →
      step s = .next { s with
        host := rest, readouts := .enc a ((List.range k).map fun j => s.encByte (a + j)) :: s.readouts }) ∧
    (∀ i k, s.host = .dumpInt i k :: rest → i + k ≤ 2 ^ s.aw →
      step s = .next { s with
        host := rest, readouts := .int i ((List.range k).map fun j => s.intWord (i + j)) :: s.readouts }) ∧
    (∀ a bs, s.host = .fillEnc a bs :: rest → 2 ^ s.aw < a + bs.length → step s = .refused .hostOutsideSpace) ∧
    (∀ i xs, s.host = .fillInt i xs :: rest → 2 ^ s.aw < i + xs.length → step s = .refused .hostOutsideSpace) ∧
    (∀ a k, s.host = .dumpEnc a k :: rest → 2 ^ s.aw < a + k → step s = .refused .hostOutsideSpace) ∧
    ∀ i k, s.host = .dumpInt i k :: rest → 2 ^ s.aw < i + k → step s = .refused .hostOutsideSpace

/-- The engine's own step is never refused. Under a pending WAIT while busy, and under `pass` (log 7), the step is the
engine's, the one the machine makes with no action pending; WAIT stays pending until PHASE is DONE or ERROR, goes then
and changes nothing else, and in IDLE waits on (log 25). The statements about the engine's steps with an empty list
reach a waiting host through this one. -/
def Obligations.WaitAndPassRunTheEngine : Prop :=
  ∀ (s : State) (rest : List HostOp),
    (∀ r, step (s.withHost []) ≠ .refused r) ∧
    (s.busy = true → s.host = .wait :: rest →
      (∀ t, step (s.withHost []) = .next t → step s = .next (t.withHost (.wait :: rest))) ∧
      ∀ f, step (s.withHost []) = .fault f → step s = .fault f) ∧
    (s.host = .pass :: rest →
      (∀ t, step (s.withHost []) = .next t → step s = .next (t.withHost rest)) ∧
      ∀ f, step (s.withHost []) = .fault f → step s = .fault f) ∧
    (s.phase = .done ∨ s.phase = .error → s.host = .wait :: rest → step s = .next { s with host := rest }) ∧
    (s.phase = .idle → s.host = .wait :: rest → step s = .next s)
end

