-- ==== Sys2Proof/Laws/Format.lean ====
section
/-! SUPPORT. Laws/Format.lean: the ranges and lengths of the format functions (40_format_primitives.md). -/

namespace Sys2Proof.Machine

theorem byteLength_pos (x : Word) : 1 ≤ byteLength x := by unfold byteLength; split_ifs <;> omega

theorem byteLength_le (x : Word) : byteLength x ≤ 4 := by unfold byteLength; split_ifs <;> omega

@[simp] theorem payload_length (x : Word) : (payload x).length = byteLength x := by simp [payload]

@[simp] theorem payloads_nil : payloads [] = [] := rfl

@[simp] theorem payloads_cons (x : Word) (xs : List Word) : payloads (x :: xs) = payload x ++ payloads xs := rfl

theorem payloads_length (xs : List Word) : (payloads xs).length = (xs.map byteLength).sum := by
  induction xs with
  | nil => rfl
  | cons x xs ih => simp [ih]

theorem payloads_length_le (xs : List Word) : (payloads xs).length ≤ 4 * xs.length := by
  induction xs with
  | nil => simp
  | cons x xs ih =>
    simp only [payloads_cons, List.length_append, payload_length, List.length_cons]
    have := byteLength_le x
    omega

/-- The length of an encoded stream (42_scalar_encoder.md R127): control stream, then one payload per integer. -/
@[simp] theorem encodeFn_length (xs : List Word) :
    (encodeFn xs).length = controlStreamLen xs.length + (xs.map byteLength).sum := by
  simp [encodeFn, payloads_length]

/-- The size bound of R128, law 1, without its equality case. -/
theorem encodeFn_length_le (xs : List Word) : (encodeFn xs).length ≤ maxEncodedLen xs.length := by
  have h := payloads_length_le xs
  rw [payloads_length] at h
  rw [encodeFn_length]
  unfold maxEncodedLen
  omega

theorem ctrlLen_pos (c : Byte) (i : Nat) : 1 ≤ ctrlLen c i := by unfold ctrlLen; omega

theorem ctrlLen_le (c : Byte) (i : Nat) : ctrlLen c i ≤ 4 := by
  unfold ctrlLen
  have : ((c >>> (2 * i)) &&& 3#8).toNat ≤ 3 := by
    rw [BitVec.toNat_and]; exact Nat.and_le_right
  omega

theorem le_quadLen (c : Byte) (r : Nat) : r ≤ quadLen c r := by
  induction r with
  | zero => simp [quadLen]
  | succ r ih => have := ctrlLen_pos c r; simp only [quadLen]; omega

theorem quadLen_le (c : Byte) (r : Nat) : quadLen c r ≤ 4 * r := by
  induction r with
  | zero => simp [quadLen]
  | succ r ih => have := ctrlLen_le c r; simp only [quadLen]; omega

theorem ptab_eq_quadLen (c : Byte) : ptab c = quadLen c 4 := by simp [ptab, quadLen]

theorem quadSize_le (rem : Nat) : quadSize rem ≤ 4 := Nat.min_le_left _ _

theorem quadSize_le_rem (rem : Nat) : quadSize rem ≤ rem := Nat.min_le_right _ _

theorem quadSize_pos {rem : Nat} (h : 0 < rem) : 0 < quadSize rem := by unfold quadSize; omega

theorem controlStreamLen_le (n : Nat) : controlStreamLen n ≤ n := by unfold controlStreamLen; omega

@[simp] theorem quadInts_length (f : Nat → Byte) (d : Nat) (c : Byte) (r : Nat) : (quadInts f d c r).length = r := by
  simp [quadInts]

/-- The number of `k` little-endian bytes is below `256 ^ k`. -/
theorem loadLE_lt (f : Nat → Byte) (a k : Nat) : loadLE f a k < 256 ^ k := by
  induction k generalizing a with
  | zero => simp [loadLE]
  | succ k ih =>
    have h1 := (f a).isLt
    have h2 := ih (a + 1)
    simp only [loadLE, Nat.pow_succ]
    omega

/-- A little-endian number depends on its own bytes only. -/
theorem loadLE_congr {f g : Nat → Byte} {a b k : Nat} (h : ∀ j < k, f (a + j) = g (b + j)) :
    loadLE f a k = loadLE g b k := by
  induction k generalizing a b with
  | zero => rfl
  | succ k ih =>
    have h0 : f a = g b := h 0 (by omega)
    have h1 : loadLE f (a + 1) k = loadLE g (b + 1) k := ih fun j hj => by
      have := h (j + 1) (by omega)
      rwa [show a + 1 + j = a + (j + 1) by omega, show b + 1 + j = b + (j + 1) by omega]
    simp only [loadLE, h0, h1]

end Sys2Proof.Machine
end

