-- ==== Sys2Proof/Laws/Memory.lean ====
section
/-! SUPPORT. Laws/Memory.lean: the laws of the two memories: read after write, what a write leaves alone, and that every
memory operation keeps the canonical form and the address bound. -/

namespace Sys2Proof.Machine

variable {α : Type}

@[simp] theorem Memory.read_nil (a : Nat) : Memory.read ([] : Memory α) a = none := rfl

theorem Memory.read_cons (b : Nat) (w : α) (m : Memory α) (a : Nat) :
    Memory.read ((b, w) :: m) a = if a = b then some w else Memory.read m a := rfl

/-- One cell read after a write: the value written at its own offset, the old one anywhere else. -/
theorem Memory.read_write (m : Memory α) (a b : Nat) (v : α) :
    Memory.read (Memory.write m a v) b = if b = a then some v else Memory.read m b := by
  induction m with
  | nil => simp [Memory.write, Memory.read]
  | cons e m ih =>
    obtain ⟨k, w⟩ := e
    simp only [Memory.write]
    split
    · rfl
    · split
      · rename_i h; subst h
        simp only [Memory.read_cons]
        split <;> rfl
      · rename_i hne
        simp only [Memory.read_cons, ih]
        by_cases hb : b = k
        · subst hb; rw [if_pos rfl, if_pos rfl, if_neg (fun h => hne h.symm)]
        · rw [if_neg hb, if_neg hb]

theorem Memory.read_write_same (m : Memory α) (a : Nat) (v : α) :
    Memory.read (Memory.write m a v) a = some v := by rw [Memory.read_write, if_pos rfl]

theorem Memory.read_write_other (m : Memory α) {a b : Nat} (v : α) (h : b ≠ a) :
    Memory.read (Memory.write m a v) b = Memory.read m b := by rw [Memory.read_write, if_neg h]

/-- A list written from `a` on: cell `a + j` holds entry `j`, every other cell is as before. -/
theorem Memory.read_writeList (m : Memory α) (a : Nat) (vs : List α) (b : Nat) :
    Memory.read (Memory.writeList m a vs) b =
      if a ≤ b ∧ b < a + vs.length then vs[b - a]? else Memory.read m b := by
  induction vs generalizing m a with
  | nil => simp [Memory.writeList]
  | cons v vs ih =>
    simp only [Memory.writeList, ih, Memory.read_write, List.length_cons]
    by_cases h1 : a + 1 ≤ b ∧ b < a + 1 + vs.length
    · rw [if_pos h1, if_pos (by omega)]
      obtain ⟨j, rfl⟩ : ∃ j, b = a + 1 + j := ⟨b - (a + 1), by omega⟩
      rw [show a + 1 + j - (a + 1) = j by omega, show a + 1 + j - a = j + 1 by omega]; rfl
    · rw [if_neg h1]
      by_cases h2 : b = a
      · subst h2; rw [if_pos rfl, if_pos (by omega)]; simp
      · rw [if_neg h2, if_neg (by omega)]

theorem Memory.read_writeList_outside (m : Memory α) (a : Nat) (vs : List α) (b : Nat)
    (h : b < a ∨ a + vs.length ≤ b) : Memory.read (Memory.writeList m a vs) b = Memory.read m b := by
  rw [Memory.read_writeList, if_neg (by omega)]

/-- A cell that the list covers holds the list's entry. -/
theorem Memory.read_writeList_inside (m : Memory α) (a : Nat) (vs : List α) (j : Nat) (h : j < vs.length) :
    Memory.read (Memory.writeList m a vs) (a + j) = some vs[j] := by
  rw [Memory.read_writeList, if_pos (by omega), show a + j - a = j by omega, List.getElem?_eq_getElem h]

/-- The offsets a write can add: only its own. -/
theorem Memory.mem_write {m : Memory α} {a : Nat} {v : α} {e : Nat × α} (h : e ∈ Memory.write m a v) :
    e.1 = a ∨ e ∈ m := by
  induction m with
  | nil => simp only [Memory.write, List.mem_singleton] at h; left; rw [h]
  | cons f m ih =>
    obtain ⟨k, w⟩ := f
    simp only [Memory.write] at h
    split at h
    · simp only [List.mem_cons] at h
      rcases h with rfl | h
      · exact .inl rfl
      · exact .inr (by simpa using h)
    · split at h
      · simp only [List.mem_cons] at h
        rcases h with rfl | h
        · exact .inl rfl
        · exact .inr (List.mem_cons_of_mem _ h)
      · simp only [List.mem_cons] at h
        rcases h with rfl | h
        · exact .inr (by simp)
        · rcases ih h with h | h
          · exact .inl h
          · exact .inr (List.mem_cons_of_mem _ h)

theorem Memory.wf_nil : Memory.wf ([] : Memory α) := by simp [Memory.wf]

theorem Memory.wf_cons (k : Nat) (w : α) (m : Memory α) :
    Memory.wf ((k, w) :: m) ↔ (∀ e ∈ m, k < e.1) ∧ Memory.wf m := by
  simp [Memory.wf]

theorem Memory.wf_write {m : Memory α} (h : Memory.wf m) (a : Nat) (v : α) : Memory.wf (Memory.write m a v) := by
  induction m with
  | nil => simp [Memory.write, Memory.wf]
  | cons f m ih =>
    obtain ⟨k, w⟩ := f
    obtain ⟨hk, hm⟩ := (Memory.wf_cons k w m).1 h
    simp only [Memory.write]
    split
    · rename_i hlt
      refine (Memory.wf_cons _ _ _).2 ⟨?_, h⟩
      intro e he
      rcases List.mem_cons.1 he with rfl | he
      · exact hlt
      · exact lt_trans hlt (hk e he)
    · split
      · rename_i heq; subst heq
        exact (Memory.wf_cons _ _ _).2 ⟨hk, hm⟩
      · refine (Memory.wf_cons _ _ _).2 ⟨?_, ih hm⟩
        intro e he
        rcases Memory.mem_write he with h1 | h1
        · omega
        · exact hk e h1

theorem Memory.wf_writeList {m : Memory α} (h : Memory.wf m) (a : Nat) (vs : List α) :
    Memory.wf (Memory.writeList m a vs) := by
  induction vs generalizing m a with
  | nil => exact h
  | cons v vs ih => exact ih (Memory.wf_write h a v) (a + 1)

theorem Memory.Ok.nil (aw : Nat) : Memory.Ok aw ([] : Memory α) := ⟨Memory.wf_nil, by simp⟩

theorem Memory.Ok.write {aw : Nat} {m : Memory α} (h : Memory.Ok aw m) {a : Nat} (ha : a < 2 ^ aw) (v : α) :
    Memory.Ok aw (Memory.write m a v) := by
  refine ⟨Memory.wf_write h.rising a v, fun e he => ?_⟩
  rcases Memory.mem_write he with h1 | h1
  · omega
  · exact h.inside e h1

/-- A list written inside the space keeps the memory canonical and inside the space. -/
theorem Memory.Ok.writeList {aw : Nat} {m : Memory α} (h : Memory.Ok aw m) {a : Nat} {vs : List α}
    (ha : a + vs.length ≤ 2 ^ aw) : Memory.Ok aw (Memory.writeList m a vs) := by
  induction vs generalizing m a with
  | nil => exact h
  | cons v vs ih =>
    simp only [List.length_cons] at ha
    exact ih (h.write (by omega) v) (by omega)

/-! ## The two spaces of a state -/

theorem State.encByte_of_ENC {s t : State} (h : t.ENC = s.ENC) : t.encByte = s.encByte := by
  funext a; simp [State.encByte, h]

theorem State.intWord_of_INT {s t : State} (h : t.INT = s.INT) : t.intWord = s.intWord := by
  funext a; simp [State.intWord, h]

/-- `ENC` after a list of bytes is written from `a` on. -/
theorem State.encByte_writeList {s t : State} {a : Nat} {vs : List Byte} (h : t.ENC = Memory.writeList s.ENC a vs) (b : Nat) :
    t.encByte b = if a ≤ b ∧ b < a + vs.length then (vs[b - a]?).getD (Config.encInit b) else s.encByte b := by
  simp only [State.encByte, h, Memory.read_writeList]; split <;> rfl

/-- `INT` after a list of integers is written from `i` on. -/
theorem State.intWord_writeList {s t : State} {i : Nat} {xs : List Word} (h : t.INT = Memory.writeList s.INT i xs) (j : Nat) :
    t.intWord j = if i ≤ j ∧ j < i + xs.length then (xs[j - i]?).getD (Config.intInit j) else s.intWord j := by
  simp only [State.intWord, h, Memory.read_writeList]; split <;> rfl

@[simp] theorem State.encBytes_length (s : State) (a k : Nat) : (s.encBytes a k).length = k := by simp [State.encBytes]
@[simp] theorem State.intWords_length (s : State) (i k : Nat) : (s.intWords i k).length = k := by simp [State.intWords]
@[simp] theorem drawnInts_length (d k : Nat) : (drawnInts d k).length = k := by simp [drawnInts]
@[simp] theorem drawnBytes_length (d k : Nat) : (drawnBytes d k).length = k := by simp [drawnBytes]

end Sys2Proof.Machine
end

