-- ==== Sys2Proof/Laws/State.lean ====
section
/-! SUPPORT. Laws/State.lean: one lemma per field per named update of State, so that no proof unfolds a record update. -/

namespace Sys2Proof.Machine

/-! ## State.withHost -/

@[simp] theorem State.withHost_aw (s : State) (rest : List HostOp) : (s.withHost rest).aw = s.aw := rfl
@[simp] theorem State.withHost_CMD (s : State) (rest : List HostOp) : (s.withHost rest).CMD = s.CMD := rfl
@[simp] theorem State.withHost_phase (s : State) (rest : List HostOp) : (s.withHost rest).phase = s.phase := rfl
@[simp] theorem State.withHost_errCode (s : State) (rest : List HostOp) : (s.withHost rest).errCode = s.errCode := rfl
@[simp] theorem State.withHost_N (s : State) (rest : List HostOp) : (s.withHost rest).N = s.N := rfl
@[simp] theorem State.withHost_X (s : State) (rest : List HostOp) : (s.withHost rest).X = s.X := rfl
@[simp] theorem State.withHost_ENC_LEN (s : State) (rest : List HostOp) : (s.withHost rest).ENC_LEN = s.ENC_LEN := rfl
@[simp] theorem State.withHost_INT_LEN (s : State) (rest : List HostOp) : (s.withHost rest).INT_LEN = s.INT_LEN := rfl
@[simp] theorem State.withHost_RESULT (s : State) (rest : List HostOp) : (s.withHost rest).RESULT = s.RESULT := rfl
@[simp] theorem State.withHost_ERR_EXPECTED (s : State) (rest : List HostOp) :
    (s.withHost rest).ERR_EXPECTED = s.ERR_EXPECTED := rfl
@[simp] theorem State.withHost_ERR_AVAILABLE (s : State) (rest : List HostOp) :
    (s.withHost rest).ERR_AVAILABLE = s.ERR_AVAILABLE := rfl
@[simp] theorem State.withHost_nWritten (s : State) (rest : List HostOp) :
    (s.withHost rest).nWritten = s.nWritten := rfl
@[simp] theorem State.withHost_xWritten (s : State) (rest : List HostOp) :
    (s.withHost rest).xWritten = s.xWritten := rfl
@[simp] theorem State.withHost_encLenWritten (s : State) (rest : List HostOp) :
    (s.withHost rest).encLenWritten = s.encLenWritten := rfl
@[simp] theorem State.withHost_intLenWritten (s : State) (rest : List HostOp) :
    (s.withHost rest).intLenWritten = s.intLenWritten := rfl
@[simp] theorem State.withHost_n (s : State) (rest : List HostOp) : (s.withHost rest).n = s.n := rfl
@[simp] theorem State.withHost_strat (s : State) (rest : List HostOp) : (s.withHost rest).strat = s.strat := rfl
@[simp] theorem State.withHost_cc (s : State) (rest : List HostOp) : (s.withHost rest).cc = s.cc := rfl
@[simp] theorem State.withHost_dc (s : State) (rest : List HostOp) : (s.withHost rest).dc = s.dc := rfl
@[simp] theorem State.withHost_oc (s : State) (rest : List HostOp) : (s.withHost rest).oc = s.oc := rfl
@[simp] theorem State.withHost_rem (s : State) (rest : List HostOp) : (s.withHost rest).rem = s.rem := rfl
@[simp] theorem State.withHost_c (s : State) (rest : List HostOp) : (s.withHost rest).c = s.c := rfl
@[simp] theorem State.withHost_p (s : State) (rest : List HostOp) : (s.withHost rest).p = s.p := rfl
@[simp] theorem State.withHost_M (s : State) (rest : List HostOp) : (s.withHost rest).M = s.M := rfl
@[simp] theorem State.withHost_W (s : State) (rest : List HostOp) : (s.withHost rest).W = s.W := rfl
@[simp] theorem State.withHost_V (s : State) (rest : List HostOp) : (s.withHost rest).V = s.V := rfl
@[simp] theorem State.withHost_ENC (s : State) (rest : List HostOp) : (s.withHost rest).ENC = s.ENC := rfl
@[simp] theorem State.withHost_INT (s : State) (rest : List HostOp) : (s.withHost rest).INT = s.INT := rfl
@[simp] theorem State.withHost_draws (s : State) (rest : List HostOp) : (s.withHost rest).draws = s.draws := rfl
@[simp] theorem State.withHost_host (s : State) (rest : List HostOp) : (s.withHost rest).host = rest := rfl
@[simp] theorem State.withHost_readouts (s : State) (rest : List HostOp) :
    (s.withHost rest).readouts = s.readouts := rfl

/-! ## State.finish -/

@[simp] theorem State.finish_aw (s : State) (r : Nat) : (s.finish r).aw = s.aw := rfl
@[simp] theorem State.finish_CMD (s : State) (r : Nat) : (s.finish r).CMD = s.CMD := rfl
@[simp] theorem State.finish_phase (s : State) (r : Nat) : (s.finish r).phase = .done := rfl
@[simp] theorem State.finish_errCode (s : State) (r : Nat) : (s.finish r).errCode = s.errCode := rfl
@[simp] theorem State.finish_N (s : State) (r : Nat) : (s.finish r).N = s.N := rfl
@[simp] theorem State.finish_X (s : State) (r : Nat) : (s.finish r).X = s.X := rfl
@[simp] theorem State.finish_ENC_LEN (s : State) (r : Nat) : (s.finish r).ENC_LEN = s.ENC_LEN := rfl
@[simp] theorem State.finish_INT_LEN (s : State) (r : Nat) : (s.finish r).INT_LEN = s.INT_LEN := rfl
@[simp] theorem State.finish_RESULT (s : State) (r : Nat) : (s.finish r).RESULT = r := rfl
@[simp] theorem State.finish_ERR_EXPECTED (s : State) (r : Nat) : (s.finish r).ERR_EXPECTED = 0 := rfl
@[simp] theorem State.finish_ERR_AVAILABLE (s : State) (r : Nat) : (s.finish r).ERR_AVAILABLE = 0 := rfl
@[simp] theorem State.finish_nWritten (s : State) (r : Nat) : (s.finish r).nWritten = s.nWritten := rfl
@[simp] theorem State.finish_xWritten (s : State) (r : Nat) : (s.finish r).xWritten = s.xWritten := rfl
@[simp] theorem State.finish_encLenWritten (s : State) (r : Nat) : (s.finish r).encLenWritten = s.encLenWritten := rfl
@[simp] theorem State.finish_intLenWritten (s : State) (r : Nat) : (s.finish r).intLenWritten = s.intLenWritten := rfl
@[simp] theorem State.finish_n (s : State) (r : Nat) : (s.finish r).n = s.n := rfl
@[simp] theorem State.finish_strat (s : State) (r : Nat) : (s.finish r).strat = s.strat := rfl
@[simp] theorem State.finish_cc (s : State) (r : Nat) : (s.finish r).cc = s.cc := rfl
@[simp] theorem State.finish_dc (s : State) (r : Nat) : (s.finish r).dc = s.dc := rfl
@[simp] theorem State.finish_oc (s : State) (r : Nat) : (s.finish r).oc = s.oc := rfl
@[simp] theorem State.finish_rem (s : State) (r : Nat) : (s.finish r).rem = s.rem := rfl
@[simp] theorem State.finish_c (s : State) (r : Nat) : (s.finish r).c = s.c := rfl
@[simp] theorem State.finish_p (s : State) (r : Nat) : (s.finish r).p = s.p := rfl
@[simp] theorem State.finish_M (s : State) (r : Nat) : (s.finish r).M = s.M := rfl
@[simp] theorem State.finish_W (s : State) (r : Nat) : (s.finish r).W = s.W := rfl
@[simp] theorem State.finish_V (s : State) (r : Nat) : (s.finish r).V = s.V := rfl
@[simp] theorem State.finish_ENC (s : State) (r : Nat) : (s.finish r).ENC = s.ENC := rfl
@[simp] theorem State.finish_INT (s : State) (r : Nat) : (s.finish r).INT = s.INT := rfl
@[simp] theorem State.finish_draws (s : State) (r : Nat) : (s.finish r).draws = s.draws := rfl
@[simp] theorem State.finish_host (s : State) (r : Nat) : (s.finish r).host = s.host := rfl
@[simp] theorem State.finish_readouts (s : State) (r : Nat) : (s.finish r).readouts = s.readouts := rfl

/-! ## State.latch -/

@[simp] theorem State.latch_aw (s : State) (count : Nat) (strat : Strategy) (phase : Phase) :
    (s.latch count strat phase).aw = s.aw := rfl
@[simp] theorem State.latch_CMD (s : State) (count : Nat) (strat : Strategy) (phase : Phase) :
    (s.latch count strat phase).CMD = s.CMD := rfl
@[simp] theorem State.latch_phase (s : State) (count : Nat) (strat : Strategy) (phase : Phase) :
    (s.latch count strat phase).phase = phase := rfl
@[simp] theorem State.latch_errCode (s : State) (count : Nat) (strat : Strategy) (phase : Phase) :
    (s.latch count strat phase).errCode = none := rfl
@[simp] theorem State.latch_N (s : State) (count : Nat) (strat : Strategy) (phase : Phase) :
    (s.latch count strat phase).N = s.N := rfl
@[simp] theorem State.latch_X (s : State) (count : Nat) (strat : Strategy) (phase : Phase) :
    (s.latch count strat phase).X = s.X := rfl
@[simp] theorem State.latch_ENC_LEN (s : State) (count : Nat) (strat : Strategy) (phase : Phase) :
    (s.latch count strat phase).ENC_LEN = s.ENC_LEN := rfl
@[simp] theorem State.latch_INT_LEN (s : State) (count : Nat) (strat : Strategy) (phase : Phase) :
    (s.latch count strat phase).INT_LEN = s.INT_LEN := rfl
@[simp] theorem State.latch_RESULT (s : State) (count : Nat) (strat : Strategy) (phase : Phase) :
    (s.latch count strat phase).RESULT = s.RESULT := rfl
@[simp] theorem State.latch_ERR_EXPECTED (s : State) (count : Nat) (strat : Strategy) (phase : Phase) :
    (s.latch count strat phase).ERR_EXPECTED = s.ERR_EXPECTED := rfl
@[simp] theorem State.latch_ERR_AVAILABLE (s : State) (count : Nat) (strat : Strategy) (phase : Phase) :
    (s.latch count strat phase).ERR_AVAILABLE = s.ERR_AVAILABLE := rfl
@[simp] theorem State.latch_nWritten (s : State) (count : Nat) (strat : Strategy) (phase : Phase) :
    (s.latch count strat phase).nWritten = s.nWritten := rfl
@[simp] theorem State.latch_xWritten (s : State) (count : Nat) (strat : Strategy) (phase : Phase) :
    (s.latch count strat phase).xWritten = s.xWritten := rfl
@[simp] theorem State.latch_encLenWritten (s : State) (count : Nat) (strat : Strategy) (phase : Phase) :
    (s.latch count strat phase).encLenWritten = s.encLenWritten := rfl
@[simp] theorem State.latch_intLenWritten (s : State) (count : Nat) (strat : Strategy) (phase : Phase) :
    (s.latch count strat phase).intLenWritten = s.intLenWritten := rfl
@[simp] theorem State.latch_n (s : State) (count : Nat) (strat : Strategy) (phase : Phase) :
    (s.latch count strat phase).n = count := rfl
@[simp] theorem State.latch_strat (s : State) (count : Nat) (strat : Strategy) (phase : Phase) :
    (s.latch count strat phase).strat = strat := rfl
@[simp] theorem State.latch_cc (s : State) (count : Nat) (strat : Strategy) (phase : Phase) :
    (s.latch count strat phase).cc = 0 := rfl
@[simp] theorem State.latch_dc (s : State) (count : Nat) (strat : Strategy) (phase : Phase) :
    (s.latch count strat phase).dc = controlStreamLen count := rfl
@[simp] theorem State.latch_oc (s : State) (count : Nat) (strat : Strategy) (phase : Phase) :
    (s.latch count strat phase).oc = 0 := rfl
@[simp] theorem State.latch_rem (s : State) (count : Nat) (strat : Strategy) (phase : Phase) :
    (s.latch count strat phase).rem = count := rfl
@[simp] theorem State.latch_c (s : State) (count : Nat) (strat : Strategy) (phase : Phase) :
    (s.latch count strat phase).c = s.c := rfl
@[simp] theorem State.latch_p (s : State) (count : Nat) (strat : Strategy) (phase : Phase) :
    (s.latch count strat phase).p = s.p := rfl
@[simp] theorem State.latch_M (s : State) (count : Nat) (strat : Strategy) (phase : Phase) :
    (s.latch count strat phase).M = s.M := rfl
@[simp] theorem State.latch_W (s : State) (count : Nat) (strat : Strategy) (phase : Phase) :
    (s.latch count strat phase).W = s.W := rfl
@[simp] theorem State.latch_V (s : State) (count : Nat) (strat : Strategy) (phase : Phase) :
    (s.latch count strat phase).V = s.V := rfl
@[simp] theorem State.latch_ENC (s : State) (count : Nat) (strat : Strategy) (phase : Phase) :
    (s.latch count strat phase).ENC = s.ENC := rfl
@[simp] theorem State.latch_INT (s : State) (count : Nat) (strat : Strategy) (phase : Phase) :
    (s.latch count strat phase).INT = s.INT := rfl
@[simp] theorem State.latch_draws (s : State) (count : Nat) (strat : Strategy) (phase : Phase) :
    (s.latch count strat phase).draws = s.draws := rfl
@[simp] theorem State.latch_host (s : State) (count : Nat) (strat : Strategy) (phase : Phase) :
    (s.latch count strat phase).host = s.host := rfl
@[simp] theorem State.latch_readouts (s : State) (count : Nat) (strat : Strategy) (phase : Phase) :
    (s.latch count strat phase).readouts = s.readouts := rfl

/-! ## State.advance -/

@[simp] theorem State.advance_aw (s : State) (c : Byte) (len r : Nat) : (s.advance c len r).aw = s.aw := rfl
@[simp] theorem State.advance_CMD (s : State) (c : Byte) (len r : Nat) : (s.advance c len r).CMD = s.CMD := rfl
@[simp] theorem State.advance_phase (s : State) (c : Byte) (len r : Nat) : (s.advance c len r).phase = s.phase := rfl
@[simp] theorem State.advance_errCode (s : State) (c : Byte) (len r : Nat) :
    (s.advance c len r).errCode = s.errCode := rfl
@[simp] theorem State.advance_N (s : State) (c : Byte) (len r : Nat) : (s.advance c len r).N = s.N := rfl
@[simp] theorem State.advance_X (s : State) (c : Byte) (len r : Nat) : (s.advance c len r).X = s.X := rfl
@[simp] theorem State.advance_ENC_LEN (s : State) (c : Byte) (len r : Nat) :
    (s.advance c len r).ENC_LEN = s.ENC_LEN := rfl
@[simp] theorem State.advance_INT_LEN (s : State) (c : Byte) (len r : Nat) :
    (s.advance c len r).INT_LEN = s.INT_LEN := rfl
@[simp] theorem State.advance_RESULT (s : State) (c : Byte) (len r : Nat) :
    (s.advance c len r).RESULT = s.RESULT := rfl
@[simp] theorem State.advance_ERR_EXPECTED (s : State) (c : Byte) (len r : Nat) :
    (s.advance c len r).ERR_EXPECTED = s.ERR_EXPECTED := rfl
@[simp] theorem State.advance_ERR_AVAILABLE (s : State) (c : Byte) (len r : Nat) :
    (s.advance c len r).ERR_AVAILABLE = s.ERR_AVAILABLE := rfl
@[simp] theorem State.advance_nWritten (s : State) (c : Byte) (len r : Nat) :
    (s.advance c len r).nWritten = s.nWritten := rfl
@[simp] theorem State.advance_xWritten (s : State) (c : Byte) (len r : Nat) :
    (s.advance c len r).xWritten = s.xWritten := rfl
@[simp] theorem State.advance_encLenWritten (s : State) (c : Byte) (len r : Nat) :
    (s.advance c len r).encLenWritten = s.encLenWritten := rfl
@[simp] theorem State.advance_intLenWritten (s : State) (c : Byte) (len r : Nat) :
    (s.advance c len r).intLenWritten = s.intLenWritten := rfl
@[simp] theorem State.advance_n (s : State) (c : Byte) (len r : Nat) : (s.advance c len r).n = s.n := rfl
@[simp] theorem State.advance_strat (s : State) (c : Byte) (len r : Nat) : (s.advance c len r).strat = s.strat := rfl
@[simp] theorem State.advance_cc (s : State) (c : Byte) (len r : Nat) : (s.advance c len r).cc = s.cc + 1 := rfl
@[simp] theorem State.advance_dc (s : State) (c : Byte) (len r : Nat) : (s.advance c len r).dc = s.dc + len := rfl
@[simp] theorem State.advance_oc (s : State) (c : Byte) (len r : Nat) : (s.advance c len r).oc = s.oc + r := rfl
@[simp] theorem State.advance_rem (s : State) (c : Byte) (len r : Nat) : (s.advance c len r).rem = s.rem - r := rfl
@[simp] theorem State.advance_c (s : State) (c : Byte) (len r : Nat) : (s.advance c len r).c = c := rfl
@[simp] theorem State.advance_p (s : State) (c : Byte) (len r : Nat) :
    (s.advance c len r).p = BitVec.ofNat 5 len := rfl
@[simp] theorem State.advance_M (s : State) (c : Byte) (len r : Nat) : (s.advance c len r).M = s.M := rfl
@[simp] theorem State.advance_W (s : State) (c : Byte) (len r : Nat) : (s.advance c len r).W = s.W := rfl
@[simp] theorem State.advance_V (s : State) (c : Byte) (len r : Nat) : (s.advance c len r).V = s.V := rfl
@[simp] theorem State.advance_ENC (s : State) (c : Byte) (len r : Nat) : (s.advance c len r).ENC = s.ENC := rfl
@[simp] theorem State.advance_INT (s : State) (c : Byte) (len r : Nat) : (s.advance c len r).INT = s.INT := rfl
@[simp] theorem State.advance_draws (s : State) (c : Byte) (len r : Nat) : (s.advance c len r).draws = s.draws := rfl
@[simp] theorem State.advance_host (s : State) (c : Byte) (len r : Nat) : (s.advance c len r).host = s.host := rfl
@[simp] theorem State.advance_readouts (s : State) (c : Byte) (len r : Nat) :
    (s.advance c len r).readouts = s.readouts := rfl

/-! ## State.withCMD -/

@[simp] theorem State.withCMD_aw (s : State) (v : Byte) : (s.withCMD v).aw = s.aw := rfl
@[simp] theorem State.withCMD_CMD (s : State) (v : Byte) : (s.withCMD v).CMD = v := rfl
@[simp] theorem State.withCMD_phase (s : State) (v : Byte) : (s.withCMD v).phase = s.phase := rfl
@[simp] theorem State.withCMD_errCode (s : State) (v : Byte) : (s.withCMD v).errCode = s.errCode := rfl
@[simp] theorem State.withCMD_N (s : State) (v : Byte) : (s.withCMD v).N = s.N := rfl
@[simp] theorem State.withCMD_X (s : State) (v : Byte) : (s.withCMD v).X = s.X := rfl
@[simp] theorem State.withCMD_ENC_LEN (s : State) (v : Byte) : (s.withCMD v).ENC_LEN = s.ENC_LEN := rfl
@[simp] theorem State.withCMD_INT_LEN (s : State) (v : Byte) : (s.withCMD v).INT_LEN = s.INT_LEN := rfl
@[simp] theorem State.withCMD_RESULT (s : State) (v : Byte) : (s.withCMD v).RESULT = s.RESULT := rfl
@[simp] theorem State.withCMD_ERR_EXPECTED (s : State) (v : Byte) : (s.withCMD v).ERR_EXPECTED = s.ERR_EXPECTED := rfl
@[simp] theorem State.withCMD_ERR_AVAILABLE (s : State) (v : Byte) :
    (s.withCMD v).ERR_AVAILABLE = s.ERR_AVAILABLE := rfl
@[simp] theorem State.withCMD_nWritten (s : State) (v : Byte) : (s.withCMD v).nWritten = s.nWritten := rfl
@[simp] theorem State.withCMD_xWritten (s : State) (v : Byte) : (s.withCMD v).xWritten = s.xWritten := rfl
@[simp] theorem State.withCMD_encLenWritten (s : State) (v : Byte) :
    (s.withCMD v).encLenWritten = s.encLenWritten := rfl
@[simp] theorem State.withCMD_intLenWritten (s : State) (v : Byte) :
    (s.withCMD v).intLenWritten = s.intLenWritten := rfl
@[simp] theorem State.withCMD_n (s : State) (v : Byte) : (s.withCMD v).n = s.n := rfl
@[simp] theorem State.withCMD_strat (s : State) (v : Byte) : (s.withCMD v).strat = s.strat := rfl
@[simp] theorem State.withCMD_cc (s : State) (v : Byte) : (s.withCMD v).cc = s.cc := rfl
@[simp] theorem State.withCMD_dc (s : State) (v : Byte) : (s.withCMD v).dc = s.dc := rfl
@[simp] theorem State.withCMD_oc (s : State) (v : Byte) : (s.withCMD v).oc = s.oc := rfl
@[simp] theorem State.withCMD_rem (s : State) (v : Byte) : (s.withCMD v).rem = s.rem := rfl
@[simp] theorem State.withCMD_c (s : State) (v : Byte) : (s.withCMD v).c = s.c := rfl
@[simp] theorem State.withCMD_p (s : State) (v : Byte) : (s.withCMD v).p = s.p := rfl
@[simp] theorem State.withCMD_M (s : State) (v : Byte) : (s.withCMD v).M = s.M := rfl
@[simp] theorem State.withCMD_W (s : State) (v : Byte) : (s.withCMD v).W = s.W := rfl
@[simp] theorem State.withCMD_V (s : State) (v : Byte) : (s.withCMD v).V = s.V := rfl
@[simp] theorem State.withCMD_ENC (s : State) (v : Byte) : (s.withCMD v).ENC = s.ENC := rfl
@[simp] theorem State.withCMD_INT (s : State) (v : Byte) : (s.withCMD v).INT = s.INT := rfl
@[simp] theorem State.withCMD_draws (s : State) (v : Byte) : (s.withCMD v).draws = s.draws := rfl
@[simp] theorem State.withCMD_host (s : State) (v : Byte) : (s.withCMD v).host = s.host := rfl
@[simp] theorem State.withCMD_readouts (s : State) (v : Byte) : (s.withCMD v).readouts = s.readouts := rfl

/-! ## State.withPhase -/

@[simp] theorem State.withPhase_aw (s : State) (ph : Phase) : (s.withPhase ph).aw = s.aw := rfl
@[simp] theorem State.withPhase_CMD (s : State) (ph : Phase) : (s.withPhase ph).CMD = s.CMD := rfl
@[simp] theorem State.withPhase_phase (s : State) (ph : Phase) : (s.withPhase ph).phase = ph := rfl
@[simp] theorem State.withPhase_errCode (s : State) (ph : Phase) : (s.withPhase ph).errCode = s.errCode := rfl
@[simp] theorem State.withPhase_N (s : State) (ph : Phase) : (s.withPhase ph).N = s.N := rfl
@[simp] theorem State.withPhase_X (s : State) (ph : Phase) : (s.withPhase ph).X = s.X := rfl
@[simp] theorem State.withPhase_ENC_LEN (s : State) (ph : Phase) : (s.withPhase ph).ENC_LEN = s.ENC_LEN := rfl
@[simp] theorem State.withPhase_INT_LEN (s : State) (ph : Phase) : (s.withPhase ph).INT_LEN = s.INT_LEN := rfl
@[simp] theorem State.withPhase_RESULT (s : State) (ph : Phase) : (s.withPhase ph).RESULT = s.RESULT := rfl
@[simp] theorem State.withPhase_ERR_EXPECTED (s : State) (ph : Phase) :
    (s.withPhase ph).ERR_EXPECTED = s.ERR_EXPECTED := rfl
@[simp] theorem State.withPhase_ERR_AVAILABLE (s : State) (ph : Phase) :
    (s.withPhase ph).ERR_AVAILABLE = s.ERR_AVAILABLE := rfl
@[simp] theorem State.withPhase_nWritten (s : State) (ph : Phase) : (s.withPhase ph).nWritten = s.nWritten := rfl
@[simp] theorem State.withPhase_xWritten (s : State) (ph : Phase) : (s.withPhase ph).xWritten = s.xWritten := rfl
@[simp] theorem State.withPhase_encLenWritten (s : State) (ph : Phase) :
    (s.withPhase ph).encLenWritten = s.encLenWritten := rfl
@[simp] theorem State.withPhase_intLenWritten (s : State) (ph : Phase) :
    (s.withPhase ph).intLenWritten = s.intLenWritten := rfl
@[simp] theorem State.withPhase_n (s : State) (ph : Phase) : (s.withPhase ph).n = s.n := rfl
@[simp] theorem State.withPhase_strat (s : State) (ph : Phase) : (s.withPhase ph).strat = s.strat := rfl
@[simp] theorem State.withPhase_cc (s : State) (ph : Phase) : (s.withPhase ph).cc = s.cc := rfl
@[simp] theorem State.withPhase_dc (s : State) (ph : Phase) : (s.withPhase ph).dc = s.dc := rfl
@[simp] theorem State.withPhase_oc (s : State) (ph : Phase) : (s.withPhase ph).oc = s.oc := rfl
@[simp] theorem State.withPhase_rem (s : State) (ph : Phase) : (s.withPhase ph).rem = s.rem := rfl
@[simp] theorem State.withPhase_c (s : State) (ph : Phase) : (s.withPhase ph).c = s.c := rfl
@[simp] theorem State.withPhase_p (s : State) (ph : Phase) : (s.withPhase ph).p = s.p := rfl
@[simp] theorem State.withPhase_M (s : State) (ph : Phase) : (s.withPhase ph).M = s.M := rfl
@[simp] theorem State.withPhase_W (s : State) (ph : Phase) : (s.withPhase ph).W = s.W := rfl
@[simp] theorem State.withPhase_V (s : State) (ph : Phase) : (s.withPhase ph).V = s.V := rfl
@[simp] theorem State.withPhase_ENC (s : State) (ph : Phase) : (s.withPhase ph).ENC = s.ENC := rfl
@[simp] theorem State.withPhase_INT (s : State) (ph : Phase) : (s.withPhase ph).INT = s.INT := rfl
@[simp] theorem State.withPhase_draws (s : State) (ph : Phase) : (s.withPhase ph).draws = s.draws := rfl
@[simp] theorem State.withPhase_host (s : State) (ph : Phase) : (s.withPhase ph).host = s.host := rfl
@[simp] theorem State.withPhase_readouts (s : State) (ph : Phase) : (s.withPhase ph).readouts = s.readouts := rfl

/-! ## State.clearError -/

@[simp] theorem State.clearError_aw (s : State) : (s.clearError).aw = s.aw := rfl
@[simp] theorem State.clearError_CMD (s : State) : (s.clearError).CMD = s.CMD := rfl
@[simp] theorem State.clearError_phase (s : State) : (s.clearError).phase = s.phase := rfl
@[simp] theorem State.clearError_errCode (s : State) : (s.clearError).errCode = none := rfl
@[simp] theorem State.clearError_N (s : State) : (s.clearError).N = s.N := rfl
@[simp] theorem State.clearError_X (s : State) : (s.clearError).X = s.X := rfl
@[simp] theorem State.clearError_ENC_LEN (s : State) : (s.clearError).ENC_LEN = s.ENC_LEN := rfl
@[simp] theorem State.clearError_INT_LEN (s : State) : (s.clearError).INT_LEN = s.INT_LEN := rfl
@[simp] theorem State.clearError_RESULT (s : State) : (s.clearError).RESULT = s.RESULT := rfl
@[simp] theorem State.clearError_ERR_EXPECTED (s : State) : (s.clearError).ERR_EXPECTED = s.ERR_EXPECTED := rfl
@[simp] theorem State.clearError_ERR_AVAILABLE (s : State) : (s.clearError).ERR_AVAILABLE = s.ERR_AVAILABLE := rfl
@[simp] theorem State.clearError_nWritten (s : State) : (s.clearError).nWritten = s.nWritten := rfl
@[simp] theorem State.clearError_xWritten (s : State) : (s.clearError).xWritten = s.xWritten := rfl
@[simp] theorem State.clearError_encLenWritten (s : State) : (s.clearError).encLenWritten = s.encLenWritten := rfl
@[simp] theorem State.clearError_intLenWritten (s : State) : (s.clearError).intLenWritten = s.intLenWritten := rfl
@[simp] theorem State.clearError_n (s : State) : (s.clearError).n = s.n := rfl
@[simp] theorem State.clearError_strat (s : State) : (s.clearError).strat = s.strat := rfl
@[simp] theorem State.clearError_cc (s : State) : (s.clearError).cc = s.cc := rfl
@[simp] theorem State.clearError_dc (s : State) : (s.clearError).dc = s.dc := rfl
@[simp] theorem State.clearError_oc (s : State) : (s.clearError).oc = s.oc := rfl
@[simp] theorem State.clearError_rem (s : State) : (s.clearError).rem = s.rem := rfl
@[simp] theorem State.clearError_c (s : State) : (s.clearError).c = s.c := rfl
@[simp] theorem State.clearError_p (s : State) : (s.clearError).p = s.p := rfl
@[simp] theorem State.clearError_M (s : State) : (s.clearError).M = s.M := rfl
@[simp] theorem State.clearError_W (s : State) : (s.clearError).W = s.W := rfl
@[simp] theorem State.clearError_V (s : State) : (s.clearError).V = s.V := rfl
@[simp] theorem State.clearError_ENC (s : State) : (s.clearError).ENC = s.ENC := rfl
@[simp] theorem State.clearError_INT (s : State) : (s.clearError).INT = s.INT := rfl
@[simp] theorem State.clearError_draws (s : State) : (s.clearError).draws = s.draws := rfl
@[simp] theorem State.clearError_host (s : State) : (s.clearError).host = s.host := rfl
@[simp] theorem State.clearError_readouts (s : State) : (s.clearError).readouts = s.readouts := rfl

/-! ## State.withControl -/

@[simp] theorem State.withControl_aw (s : State) (x : Byte) : (s.withControl x).aw = s.aw := rfl
@[simp] theorem State.withControl_CMD (s : State) (x : Byte) : (s.withControl x).CMD = s.CMD := rfl
@[simp] theorem State.withControl_phase (s : State) (x : Byte) : (s.withControl x).phase = s.phase := rfl
@[simp] theorem State.withControl_errCode (s : State) (x : Byte) : (s.withControl x).errCode = s.errCode := rfl
@[simp] theorem State.withControl_N (s : State) (x : Byte) : (s.withControl x).N = s.N := rfl
@[simp] theorem State.withControl_X (s : State) (x : Byte) : (s.withControl x).X = s.X := rfl
@[simp] theorem State.withControl_ENC_LEN (s : State) (x : Byte) : (s.withControl x).ENC_LEN = s.ENC_LEN := rfl
@[simp] theorem State.withControl_INT_LEN (s : State) (x : Byte) : (s.withControl x).INT_LEN = s.INT_LEN := rfl
@[simp] theorem State.withControl_RESULT (s : State) (x : Byte) : (s.withControl x).RESULT = s.RESULT := rfl
@[simp] theorem State.withControl_ERR_EXPECTED (s : State) (x : Byte) :
    (s.withControl x).ERR_EXPECTED = s.ERR_EXPECTED := rfl
@[simp] theorem State.withControl_ERR_AVAILABLE (s : State) (x : Byte) :
    (s.withControl x).ERR_AVAILABLE = s.ERR_AVAILABLE := rfl
@[simp] theorem State.withControl_nWritten (s : State) (x : Byte) : (s.withControl x).nWritten = s.nWritten := rfl
@[simp] theorem State.withControl_xWritten (s : State) (x : Byte) : (s.withControl x).xWritten = s.xWritten := rfl
@[simp] theorem State.withControl_encLenWritten (s : State) (x : Byte) :
    (s.withControl x).encLenWritten = s.encLenWritten := rfl
@[simp] theorem State.withControl_intLenWritten (s : State) (x : Byte) :
    (s.withControl x).intLenWritten = s.intLenWritten := rfl
@[simp] theorem State.withControl_n (s : State) (x : Byte) : (s.withControl x).n = s.n := rfl
@[simp] theorem State.withControl_strat (s : State) (x : Byte) : (s.withControl x).strat = s.strat := rfl
@[simp] theorem State.withControl_cc (s : State) (x : Byte) : (s.withControl x).cc = s.cc := rfl
@[simp] theorem State.withControl_dc (s : State) (x : Byte) : (s.withControl x).dc = s.dc := rfl
@[simp] theorem State.withControl_oc (s : State) (x : Byte) : (s.withControl x).oc = s.oc := rfl
@[simp] theorem State.withControl_rem (s : State) (x : Byte) : (s.withControl x).rem = s.rem := rfl
@[simp] theorem State.withControl_c (s : State) (x : Byte) : (s.withControl x).c = x := rfl
@[simp] theorem State.withControl_p (s : State) (x : Byte) : (s.withControl x).p = s.p := rfl
@[simp] theorem State.withControl_M (s : State) (x : Byte) : (s.withControl x).M = s.M := rfl
@[simp] theorem State.withControl_W (s : State) (x : Byte) : (s.withControl x).W = s.W := rfl
@[simp] theorem State.withControl_V (s : State) (x : Byte) : (s.withControl x).V = s.V := rfl
@[simp] theorem State.withControl_ENC (s : State) (x : Byte) : (s.withControl x).ENC = s.ENC := rfl
@[simp] theorem State.withControl_INT (s : State) (x : Byte) : (s.withControl x).INT = s.INT := rfl
@[simp] theorem State.withControl_draws (s : State) (x : Byte) : (s.withControl x).draws = s.draws := rfl
@[simp] theorem State.withControl_host (s : State) (x : Byte) : (s.withControl x).host = s.host := rfl
@[simp] theorem State.withControl_readouts (s : State) (x : Byte) : (s.withControl x).readouts = s.readouts := rfl

/-! ## State.withENC -/

@[simp] theorem State.withENC_aw (s : State) (m : Memory Byte) : (s.withENC m).aw = s.aw := rfl
@[simp] theorem State.withENC_CMD (s : State) (m : Memory Byte) : (s.withENC m).CMD = s.CMD := rfl
@[simp] theorem State.withENC_phase (s : State) (m : Memory Byte) : (s.withENC m).phase = s.phase := rfl
@[simp] theorem State.withENC_errCode (s : State) (m : Memory Byte) : (s.withENC m).errCode = s.errCode := rfl
@[simp] theorem State.withENC_N (s : State) (m : Memory Byte) : (s.withENC m).N = s.N := rfl
@[simp] theorem State.withENC_X (s : State) (m : Memory Byte) : (s.withENC m).X = s.X := rfl
@[simp] theorem State.withENC_ENC_LEN (s : State) (m : Memory Byte) : (s.withENC m).ENC_LEN = s.ENC_LEN := rfl
@[simp] theorem State.withENC_INT_LEN (s : State) (m : Memory Byte) : (s.withENC m).INT_LEN = s.INT_LEN := rfl
@[simp] theorem State.withENC_RESULT (s : State) (m : Memory Byte) : (s.withENC m).RESULT = s.RESULT := rfl
@[simp] theorem State.withENC_ERR_EXPECTED (s : State) (m : Memory Byte) :
    (s.withENC m).ERR_EXPECTED = s.ERR_EXPECTED := rfl
@[simp] theorem State.withENC_ERR_AVAILABLE (s : State) (m : Memory Byte) :
    (s.withENC m).ERR_AVAILABLE = s.ERR_AVAILABLE := rfl
@[simp] theorem State.withENC_nWritten (s : State) (m : Memory Byte) : (s.withENC m).nWritten = s.nWritten := rfl
@[simp] theorem State.withENC_xWritten (s : State) (m : Memory Byte) : (s.withENC m).xWritten = s.xWritten := rfl
@[simp] theorem State.withENC_encLenWritten (s : State) (m : Memory Byte) :
    (s.withENC m).encLenWritten = s.encLenWritten := rfl
@[simp] theorem State.withENC_intLenWritten (s : State) (m : Memory Byte) :
    (s.withENC m).intLenWritten = s.intLenWritten := rfl
@[simp] theorem State.withENC_n (s : State) (m : Memory Byte) : (s.withENC m).n = s.n := rfl
@[simp] theorem State.withENC_strat (s : State) (m : Memory Byte) : (s.withENC m).strat = s.strat := rfl
@[simp] theorem State.withENC_cc (s : State) (m : Memory Byte) : (s.withENC m).cc = s.cc := rfl
@[simp] theorem State.withENC_dc (s : State) (m : Memory Byte) : (s.withENC m).dc = s.dc := rfl
@[simp] theorem State.withENC_oc (s : State) (m : Memory Byte) : (s.withENC m).oc = s.oc := rfl
@[simp] theorem State.withENC_rem (s : State) (m : Memory Byte) : (s.withENC m).rem = s.rem := rfl
@[simp] theorem State.withENC_c (s : State) (m : Memory Byte) : (s.withENC m).c = s.c := rfl
@[simp] theorem State.withENC_p (s : State) (m : Memory Byte) : (s.withENC m).p = s.p := rfl
@[simp] theorem State.withENC_M (s : State) (m : Memory Byte) : (s.withENC m).M = s.M := rfl
@[simp] theorem State.withENC_W (s : State) (m : Memory Byte) : (s.withENC m).W = s.W := rfl
@[simp] theorem State.withENC_V (s : State) (m : Memory Byte) : (s.withENC m).V = s.V := rfl
@[simp] theorem State.withENC_ENC (s : State) (m : Memory Byte) : (s.withENC m).ENC = m := rfl
@[simp] theorem State.withENC_INT (s : State) (m : Memory Byte) : (s.withENC m).INT = s.INT := rfl
@[simp] theorem State.withENC_draws (s : State) (m : Memory Byte) : (s.withENC m).draws = s.draws := rfl
@[simp] theorem State.withENC_host (s : State) (m : Memory Byte) : (s.withENC m).host = s.host := rfl
@[simp] theorem State.withENC_readouts (s : State) (m : Memory Byte) : (s.withENC m).readouts = s.readouts := rfl

/-! ## State.withINT -/

@[simp] theorem State.withINT_aw (s : State) (m : Memory Word) : (s.withINT m).aw = s.aw := rfl
@[simp] theorem State.withINT_CMD (s : State) (m : Memory Word) : (s.withINT m).CMD = s.CMD := rfl
@[simp] theorem State.withINT_phase (s : State) (m : Memory Word) : (s.withINT m).phase = s.phase := rfl
@[simp] theorem State.withINT_errCode (s : State) (m : Memory Word) : (s.withINT m).errCode = s.errCode := rfl
@[simp] theorem State.withINT_N (s : State) (m : Memory Word) : (s.withINT m).N = s.N := rfl
@[simp] theorem State.withINT_X (s : State) (m : Memory Word) : (s.withINT m).X = s.X := rfl
@[simp] theorem State.withINT_ENC_LEN (s : State) (m : Memory Word) : (s.withINT m).ENC_LEN = s.ENC_LEN := rfl
@[simp] theorem State.withINT_INT_LEN (s : State) (m : Memory Word) : (s.withINT m).INT_LEN = s.INT_LEN := rfl
@[simp] theorem State.withINT_RESULT (s : State) (m : Memory Word) : (s.withINT m).RESULT = s.RESULT := rfl
@[simp] theorem State.withINT_ERR_EXPECTED (s : State) (m : Memory Word) :
    (s.withINT m).ERR_EXPECTED = s.ERR_EXPECTED := rfl
@[simp] theorem State.withINT_ERR_AVAILABLE (s : State) (m : Memory Word) :
    (s.withINT m).ERR_AVAILABLE = s.ERR_AVAILABLE := rfl
@[simp] theorem State.withINT_nWritten (s : State) (m : Memory Word) : (s.withINT m).nWritten = s.nWritten := rfl
@[simp] theorem State.withINT_xWritten (s : State) (m : Memory Word) : (s.withINT m).xWritten = s.xWritten := rfl
@[simp] theorem State.withINT_encLenWritten (s : State) (m : Memory Word) :
    (s.withINT m).encLenWritten = s.encLenWritten := rfl
@[simp] theorem State.withINT_intLenWritten (s : State) (m : Memory Word) :
    (s.withINT m).intLenWritten = s.intLenWritten := rfl
@[simp] theorem State.withINT_n (s : State) (m : Memory Word) : (s.withINT m).n = s.n := rfl
@[simp] theorem State.withINT_strat (s : State) (m : Memory Word) : (s.withINT m).strat = s.strat := rfl
@[simp] theorem State.withINT_cc (s : State) (m : Memory Word) : (s.withINT m).cc = s.cc := rfl
@[simp] theorem State.withINT_dc (s : State) (m : Memory Word) : (s.withINT m).dc = s.dc := rfl
@[simp] theorem State.withINT_oc (s : State) (m : Memory Word) : (s.withINT m).oc = s.oc := rfl
@[simp] theorem State.withINT_rem (s : State) (m : Memory Word) : (s.withINT m).rem = s.rem := rfl
@[simp] theorem State.withINT_c (s : State) (m : Memory Word) : (s.withINT m).c = s.c := rfl
@[simp] theorem State.withINT_p (s : State) (m : Memory Word) : (s.withINT m).p = s.p := rfl
@[simp] theorem State.withINT_M (s : State) (m : Memory Word) : (s.withINT m).M = s.M := rfl
@[simp] theorem State.withINT_W (s : State) (m : Memory Word) : (s.withINT m).W = s.W := rfl
@[simp] theorem State.withINT_V (s : State) (m : Memory Word) : (s.withINT m).V = s.V := rfl
@[simp] theorem State.withINT_ENC (s : State) (m : Memory Word) : (s.withINT m).ENC = s.ENC := rfl
@[simp] theorem State.withINT_INT (s : State) (m : Memory Word) : (s.withINT m).INT = m := rfl
@[simp] theorem State.withINT_draws (s : State) (m : Memory Word) : (s.withINT m).draws = s.draws := rfl
@[simp] theorem State.withINT_host (s : State) (m : Memory Word) : (s.withINT m).host = s.host := rfl
@[simp] theorem State.withINT_readouts (s : State) (m : Memory Word) : (s.withINT m).readouts = s.readouts := rfl

/-! ## State.withVectors -/

@[simp] theorem State.withVectors_aw (s : State) (m w v : V128) : (s.withVectors m w v).aw = s.aw := rfl
@[simp] theorem State.withVectors_CMD (s : State) (m w v : V128) : (s.withVectors m w v).CMD = s.CMD := rfl
@[simp] theorem State.withVectors_phase (s : State) (m w v : V128) : (s.withVectors m w v).phase = s.phase := rfl
@[simp] theorem State.withVectors_errCode (s : State) (m w v : V128) :
    (s.withVectors m w v).errCode = s.errCode := rfl
@[simp] theorem State.withVectors_N (s : State) (m w v : V128) : (s.withVectors m w v).N = s.N := rfl
@[simp] theorem State.withVectors_X (s : State) (m w v : V128) : (s.withVectors m w v).X = s.X := rfl
@[simp] theorem State.withVectors_ENC_LEN (s : State) (m w v : V128) :
    (s.withVectors m w v).ENC_LEN = s.ENC_LEN := rfl
@[simp] theorem State.withVectors_INT_LEN (s : State) (m w v : V128) :
    (s.withVectors m w v).INT_LEN = s.INT_LEN := rfl
@[simp] theorem State.withVectors_RESULT (s : State) (m w v : V128) : (s.withVectors m w v).RESULT = s.RESULT := rfl
@[simp] theorem State.withVectors_ERR_EXPECTED (s : State) (m w v : V128) :
    (s.withVectors m w v).ERR_EXPECTED = s.ERR_EXPECTED := rfl
@[simp] theorem State.withVectors_ERR_AVAILABLE (s : State) (m w v : V128) :
    (s.withVectors m w v).ERR_AVAILABLE = s.ERR_AVAILABLE := rfl
@[simp] theorem State.withVectors_nWritten (s : State) (m w v : V128) :
    (s.withVectors m w v).nWritten = s.nWritten := rfl
@[simp] theorem State.withVectors_xWritten (s : State) (m w v : V128) :
    (s.withVectors m w v).xWritten = s.xWritten := rfl
@[simp] theorem State.withVectors_encLenWritten (s : State) (m w v : V128) :
    (s.withVectors m w v).encLenWritten = s.encLenWritten := rfl
@[simp] theorem State.withVectors_intLenWritten (s : State) (m w v : V128) :
    (s.withVectors m w v).intLenWritten = s.intLenWritten := rfl
@[simp] theorem State.withVectors_n (s : State) (m w v : V128) : (s.withVectors m w v).n = s.n := rfl
@[simp] theorem State.withVectors_strat (s : State) (m w v : V128) : (s.withVectors m w v).strat = s.strat := rfl
@[simp] theorem State.withVectors_cc (s : State) (m w v : V128) : (s.withVectors m w v).cc = s.cc := rfl
@[simp] theorem State.withVectors_dc (s : State) (m w v : V128) : (s.withVectors m w v).dc = s.dc := rfl
@[simp] theorem State.withVectors_oc (s : State) (m w v : V128) : (s.withVectors m w v).oc = s.oc := rfl
@[simp] theorem State.withVectors_rem (s : State) (m w v : V128) : (s.withVectors m w v).rem = s.rem := rfl
@[simp] theorem State.withVectors_c (s : State) (m w v : V128) : (s.withVectors m w v).c = s.c := rfl
@[simp] theorem State.withVectors_p (s : State) (m w v : V128) : (s.withVectors m w v).p = s.p := rfl
@[simp] theorem State.withVectors_M (s : State) (m w v : V128) : (s.withVectors m w v).M = m := rfl
@[simp] theorem State.withVectors_W (s : State) (m w v : V128) : (s.withVectors m w v).W = w := rfl
@[simp] theorem State.withVectors_V (s : State) (m w v : V128) : (s.withVectors m w v).V = v := rfl
@[simp] theorem State.withVectors_ENC (s : State) (m w v : V128) : (s.withVectors m w v).ENC = s.ENC := rfl
@[simp] theorem State.withVectors_INT (s : State) (m w v : V128) : (s.withVectors m w v).INT = s.INT := rfl
@[simp] theorem State.withVectors_draws (s : State) (m w v : V128) : (s.withVectors m w v).draws = s.draws := rfl
@[simp] theorem State.withVectors_host (s : State) (m w v : V128) : (s.withVectors m w v).host = s.host := rfl
@[simp] theorem State.withVectors_readouts (s : State) (m w v : V128) :
    (s.withVectors m w v).readouts = s.readouts := rfl

/-! ## State.addReadout -/

@[simp] theorem State.addReadout_aw (s : State) (r : Readout) : (s.addReadout r).aw = s.aw := rfl
@[simp] theorem State.addReadout_CMD (s : State) (r : Readout) : (s.addReadout r).CMD = s.CMD := rfl
@[simp] theorem State.addReadout_phase (s : State) (r : Readout) : (s.addReadout r).phase = s.phase := rfl
@[simp] theorem State.addReadout_errCode (s : State) (r : Readout) : (s.addReadout r).errCode = s.errCode := rfl
@[simp] theorem State.addReadout_N (s : State) (r : Readout) : (s.addReadout r).N = s.N := rfl
@[simp] theorem State.addReadout_X (s : State) (r : Readout) : (s.addReadout r).X = s.X := rfl
@[simp] theorem State.addReadout_ENC_LEN (s : State) (r : Readout) : (s.addReadout r).ENC_LEN = s.ENC_LEN := rfl
@[simp] theorem State.addReadout_INT_LEN (s : State) (r : Readout) : (s.addReadout r).INT_LEN = s.INT_LEN := rfl
@[simp] theorem State.addReadout_RESULT (s : State) (r : Readout) : (s.addReadout r).RESULT = s.RESULT := rfl
@[simp] theorem State.addReadout_ERR_EXPECTED (s : State) (r : Readout) :
    (s.addReadout r).ERR_EXPECTED = s.ERR_EXPECTED := rfl
@[simp] theorem State.addReadout_ERR_AVAILABLE (s : State) (r : Readout) :
    (s.addReadout r).ERR_AVAILABLE = s.ERR_AVAILABLE := rfl
@[simp] theorem State.addReadout_nWritten (s : State) (r : Readout) : (s.addReadout r).nWritten = s.nWritten := rfl
@[simp] theorem State.addReadout_xWritten (s : State) (r : Readout) : (s.addReadout r).xWritten = s.xWritten := rfl
@[simp] theorem State.addReadout_encLenWritten (s : State) (r : Readout) :
    (s.addReadout r).encLenWritten = s.encLenWritten := rfl
@[simp] theorem State.addReadout_intLenWritten (s : State) (r : Readout) :
    (s.addReadout r).intLenWritten = s.intLenWritten := rfl
@[simp] theorem State.addReadout_n (s : State) (r : Readout) : (s.addReadout r).n = s.n := rfl
@[simp] theorem State.addReadout_strat (s : State) (r : Readout) : (s.addReadout r).strat = s.strat := rfl
@[simp] theorem State.addReadout_cc (s : State) (r : Readout) : (s.addReadout r).cc = s.cc := rfl
@[simp] theorem State.addReadout_dc (s : State) (r : Readout) : (s.addReadout r).dc = s.dc := rfl
@[simp] theorem State.addReadout_oc (s : State) (r : Readout) : (s.addReadout r).oc = s.oc := rfl
@[simp] theorem State.addReadout_rem (s : State) (r : Readout) : (s.addReadout r).rem = s.rem := rfl
@[simp] theorem State.addReadout_c (s : State) (r : Readout) : (s.addReadout r).c = s.c := rfl
@[simp] theorem State.addReadout_p (s : State) (r : Readout) : (s.addReadout r).p = s.p := rfl
@[simp] theorem State.addReadout_M (s : State) (r : Readout) : (s.addReadout r).M = s.M := rfl
@[simp] theorem State.addReadout_W (s : State) (r : Readout) : (s.addReadout r).W = s.W := rfl
@[simp] theorem State.addReadout_V (s : State) (r : Readout) : (s.addReadout r).V = s.V := rfl
@[simp] theorem State.addReadout_ENC (s : State) (r : Readout) : (s.addReadout r).ENC = s.ENC := rfl
@[simp] theorem State.addReadout_INT (s : State) (r : Readout) : (s.addReadout r).INT = s.INT := rfl
@[simp] theorem State.addReadout_draws (s : State) (r : Readout) : (s.addReadout r).draws = s.draws := rfl
@[simp] theorem State.addReadout_host (s : State) (r : Readout) : (s.addReadout r).host = s.host := rfl
@[simp] theorem State.addReadout_readouts (s : State) (r : Readout) :
    (s.addReadout r).readouts = r :: s.readouts := rfl

/-! ## State.loseInts -/

@[simp] theorem State.loseInts_aw (s : State) : (s.loseInts).aw = s.aw := rfl
@[simp] theorem State.loseInts_CMD (s : State) : (s.loseInts).CMD = s.CMD := rfl
@[simp] theorem State.loseInts_phase (s : State) : (s.loseInts).phase = s.phase := rfl
@[simp] theorem State.loseInts_errCode (s : State) : (s.loseInts).errCode = s.errCode := rfl
@[simp] theorem State.loseInts_N (s : State) : (s.loseInts).N = s.N := rfl
@[simp] theorem State.loseInts_X (s : State) : (s.loseInts).X = s.X := rfl
@[simp] theorem State.loseInts_ENC_LEN (s : State) : (s.loseInts).ENC_LEN = s.ENC_LEN := rfl
@[simp] theorem State.loseInts_INT_LEN (s : State) : (s.loseInts).INT_LEN = s.INT_LEN := rfl
@[simp] theorem State.loseInts_RESULT (s : State) : (s.loseInts).RESULT = s.RESULT := rfl
@[simp] theorem State.loseInts_ERR_EXPECTED (s : State) : (s.loseInts).ERR_EXPECTED = s.ERR_EXPECTED := rfl
@[simp] theorem State.loseInts_ERR_AVAILABLE (s : State) : (s.loseInts).ERR_AVAILABLE = s.ERR_AVAILABLE := rfl
@[simp] theorem State.loseInts_nWritten (s : State) : (s.loseInts).nWritten = s.nWritten := rfl
@[simp] theorem State.loseInts_xWritten (s : State) : (s.loseInts).xWritten = s.xWritten := rfl
@[simp] theorem State.loseInts_encLenWritten (s : State) : (s.loseInts).encLenWritten = s.encLenWritten := rfl
@[simp] theorem State.loseInts_intLenWritten (s : State) : (s.loseInts).intLenWritten = s.intLenWritten := rfl
@[simp] theorem State.loseInts_n (s : State) : (s.loseInts).n = s.n := rfl
@[simp] theorem State.loseInts_strat (s : State) : (s.loseInts).strat = s.strat := rfl
@[simp] theorem State.loseInts_cc (s : State) : (s.loseInts).cc = s.cc := rfl
@[simp] theorem State.loseInts_dc (s : State) : (s.loseInts).dc = s.dc := rfl
@[simp] theorem State.loseInts_oc (s : State) : (s.loseInts).oc = s.oc := rfl
@[simp] theorem State.loseInts_rem (s : State) : (s.loseInts).rem = s.rem := rfl
@[simp] theorem State.loseInts_c (s : State) : (s.loseInts).c = s.c := rfl
@[simp] theorem State.loseInts_p (s : State) : (s.loseInts).p = s.p := rfl
@[simp] theorem State.loseInts_M (s : State) : (s.loseInts).M = s.M := rfl
@[simp] theorem State.loseInts_W (s : State) : (s.loseInts).W = s.W := rfl
@[simp] theorem State.loseInts_V (s : State) : (s.loseInts).V = s.V := rfl
@[simp] theorem State.loseInts_ENC (s : State) : (s.loseInts).ENC = s.ENC := rfl
@[simp] theorem State.loseInts_INT (s : State) :
    (s.loseInts).INT = Memory.writeList s.INT 0 (drawnInts s.draws s.n) := rfl
@[simp] theorem State.loseInts_draws (s : State) : (s.loseInts).draws = s.draws + s.n := rfl
@[simp] theorem State.loseInts_host (s : State) : (s.loseInts).host = s.host := rfl
@[simp] theorem State.loseInts_readouts (s : State) : (s.loseInts).readouts = s.readouts := rfl

/-! ## State.loseBytes -/

@[simp] theorem State.loseBytes_aw (s : State) : (s.loseBytes).aw = s.aw := rfl
@[simp] theorem State.loseBytes_CMD (s : State) : (s.loseBytes).CMD = s.CMD := rfl
@[simp] theorem State.loseBytes_phase (s : State) : (s.loseBytes).phase = s.phase := rfl
@[simp] theorem State.loseBytes_errCode (s : State) : (s.loseBytes).errCode = s.errCode := rfl
@[simp] theorem State.loseBytes_N (s : State) : (s.loseBytes).N = s.N := rfl
@[simp] theorem State.loseBytes_X (s : State) : (s.loseBytes).X = s.X := rfl
@[simp] theorem State.loseBytes_ENC_LEN (s : State) : (s.loseBytes).ENC_LEN = s.ENC_LEN := rfl
@[simp] theorem State.loseBytes_INT_LEN (s : State) : (s.loseBytes).INT_LEN = s.INT_LEN := rfl
@[simp] theorem State.loseBytes_RESULT (s : State) : (s.loseBytes).RESULT = s.RESULT := rfl
@[simp] theorem State.loseBytes_ERR_EXPECTED (s : State) : (s.loseBytes).ERR_EXPECTED = s.ERR_EXPECTED := rfl
@[simp] theorem State.loseBytes_ERR_AVAILABLE (s : State) : (s.loseBytes).ERR_AVAILABLE = s.ERR_AVAILABLE := rfl
@[simp] theorem State.loseBytes_nWritten (s : State) : (s.loseBytes).nWritten = s.nWritten := rfl
@[simp] theorem State.loseBytes_xWritten (s : State) : (s.loseBytes).xWritten = s.xWritten := rfl
@[simp] theorem State.loseBytes_encLenWritten (s : State) : (s.loseBytes).encLenWritten = s.encLenWritten := rfl
@[simp] theorem State.loseBytes_intLenWritten (s : State) : (s.loseBytes).intLenWritten = s.intLenWritten := rfl
@[simp] theorem State.loseBytes_n (s : State) : (s.loseBytes).n = s.n := rfl
@[simp] theorem State.loseBytes_strat (s : State) : (s.loseBytes).strat = s.strat := rfl
@[simp] theorem State.loseBytes_cc (s : State) : (s.loseBytes).cc = s.cc := rfl
@[simp] theorem State.loseBytes_dc (s : State) : (s.loseBytes).dc = s.dc := rfl
@[simp] theorem State.loseBytes_oc (s : State) : (s.loseBytes).oc = s.oc := rfl
@[simp] theorem State.loseBytes_rem (s : State) : (s.loseBytes).rem = s.rem := rfl
@[simp] theorem State.loseBytes_c (s : State) : (s.loseBytes).c = s.c := rfl
@[simp] theorem State.loseBytes_p (s : State) : (s.loseBytes).p = s.p := rfl
@[simp] theorem State.loseBytes_M (s : State) : (s.loseBytes).M = s.M := rfl
@[simp] theorem State.loseBytes_W (s : State) : (s.loseBytes).W = s.W := rfl
@[simp] theorem State.loseBytes_V (s : State) : (s.loseBytes).V = s.V := rfl
@[simp] theorem State.loseBytes_ENC (s : State) :
    (s.loseBytes).ENC = Memory.writeList s.ENC 0 (drawnBytes s.draws (maxEncodedLen s.n)) := rfl
@[simp] theorem State.loseBytes_INT (s : State) : (s.loseBytes).INT = s.INT := rfl
@[simp] theorem State.loseBytes_draws (s : State) : (s.loseBytes).draws = s.draws + maxEncodedLen s.n := rfl
@[simp] theorem State.loseBytes_host (s : State) : (s.loseBytes).host = s.host := rfl
@[simp] theorem State.loseBytes_readouts (s : State) : (s.loseBytes).readouts = s.readouts := rfl

end Sys2Proof.Machine
end

