-- ==== Sys2Proof/Laws/Ops.lean ====
section
/-! SUPPORT. Laws/Ops.lean: one lemma per shared operation that says everything it can do: the entry of an error, the start
of a command, the quad steps, the engine's step and the host's. -/

namespace Sys2Proof.Machine

/-! ## Error entry -/

/-- The entry of an error, field by field, for a state built from it by record update. -/
theorem raise_eq (k : ErrorKind) (e a : Nat) (s : State) : raise k e a s =
    { s with
      errCode := some k
      ERR_EXPECTED := min e (maxCount s.aw)
      ERR_AVAILABLE := a
      RESULT := 0
      phase := .error
      INT := if k = .truncated then Memory.writeList s.INT 0 (drawnInts s.draws s.n) else s.INT
      draws := if k = .truncated then s.draws + s.n else s.draws } := by
  cases k <;> rfl

/-- An error found at the start of a command touches no buffer and draws nothing (60_exceptions.md R187). -/
theorem raise_of_ne {k : ErrorKind} (h : k ≠ .truncated) (e a : Nat) (s : State) : raise k e a s =
    { s with
      errCode := some k
      ERR_EXPECTED := min e (maxCount s.aw)
      ERR_AVAILABLE := a
      RESULT := 0
      phase := .error } := by
  simp [raise, h]

/-! ## The start of a command -/

theorem whenWritten_next {w : Bool} {t : State} {go : Result} (h : whenWritten w go = .next t) : w = true ∧ go = .next t := by
  unfold whenWritten at h
  split at h
  · exact ⟨‹_›, h⟩
  · cases h

theorem whenWritten_fault {w : Bool} {go : Result} {f : Fault} (h : whenWritten w go = .fault f) : go = .fault f := by
  unfold whenWritten at h
  split at h
  · exact h
  · cases h

theorem whenStartable_next {w : Bool} {s t : State} {go : Result} (h : whenStartable w s go = .next t) :
    s.busy = false ∧ w = true ∧ go = .next t := by
  unfold whenStartable at h
  split at h
  · cases h
  · obtain ⟨hw, hg⟩ := whenWritten_next h
    exact ⟨by simp_all, hw, hg⟩

theorem whenStartable_ready {w : Bool} {s : State} (hb : s.busy = false) (hw : w = true) (go : Result) :
    whenStartable w s go = go := by simp [whenStartable, whenWritten, hb, hw]

/-- A command never starts with a fault: the only stops are the two refusals. -/
theorem whenStartable_fault {w : Bool} {s : State} {go : Result} {f : Fault} (h : whenStartable w s go = .fault f) :
    go = .fault f := by
  unfold whenStartable at h
  split at h
  · cases h
  · exact whenWritten_fault h

theorem execBlen_next {s t : State} (h : execBlen s = .next t) :
    s.busy = false ∧ s.xWritten = true ∧ t = primitiveDone (byteLength s.X) s := by
  obtain ⟨hb, hw, hg⟩ := whenStartable_next h
  cases hg
  exact ⟨hb, hw, rfl⟩

theorem execClen_next {s t : State} (h : execClen s = .next t) :
    s.busy = false ∧ s.nWritten = true ∧ t = primitiveDone (controlStreamLen s.N) s := by
  obtain ⟨hb, hw, hg⟩ := whenStartable_next h
  cases hg
  exact ⟨hb, hw, rfl⟩

theorem execMlen_next {s t : State} (h : execMlen s = .next t) : s.busy = false ∧ s.nWritten = true ∧
    ((2 ^ s.aw ≤ maxEncodedLen s.N ∧ t = raise .contract (maxCount s.aw) 0 s) ∨
      (maxEncodedLen s.N < 2 ^ s.aw ∧ t = primitiveDone (maxEncodedLen s.N) s)) := by
  obtain ⟨hb, hw, hg⟩ := whenStartable_next h
  refine ⟨hb, hw, ?_⟩
  split at hg
  · cases hg; exact .inl ⟨‹_›, rfl⟩
  · cases hg; exact .inr ⟨by omega, rfl⟩

theorem execEnc_next {s t : State} (h : execEnc s = .next t) : s.busy = false ∧ s.encodeOperandsWritten = true ∧
    ((s.ENC_LEN < maxEncodedLen s.INT_LEN ∧ t = raise .capacity (maxEncodedLen s.INT_LEN) s.ENC_LEN s) ∨
      (maxEncodedLen s.INT_LEN ≤ s.ENC_LEN ∧ t = s.latch s.INT_LEN s.strat .encRun)) := by
  obtain ⟨hb, hw, hg⟩ := whenStartable_next h
  refine ⟨hb, hw, ?_⟩
  split at hg
  · cases hg; exact .inl ⟨‹_›, rfl⟩
  · cases hg; exact .inr ⟨by omega, rfl⟩

theorem decodeStart_next {st : Strategy} {ph : Phase} {s t : State} (h : decodeStart st ph s = .next t) :
    s.busy = false ∧ s.contractOperandsWritten = true ∧
    ((s.ENC_LEN < controlStreamLen s.N + s.N ∧ t = raise .contract (controlStreamLen s.N + s.N) s.ENC_LEN s) ∨
      (controlStreamLen s.N + s.N ≤ s.ENC_LEN ∧ s.intLenWritten = true ∧ s.INT_LEN < s.N ∧
        t = raise .capacity s.N s.INT_LEN s) ∨
      (controlStreamLen s.N + s.N ≤ s.ENC_LEN ∧ s.intLenWritten = true ∧ s.N ≤ s.INT_LEN ∧ t = s.latch s.N st ph)) := by
  obtain ⟨hb, hw, hg⟩ := whenStartable_next h
  refine ⟨hb, hw, ?_⟩
  split at hg
  · cases hg; exact .inl ⟨‹_›, rfl⟩
  · obtain ⟨hi, hg⟩ := whenWritten_next hg
    split at hg
    · cases hg; exact .inr (.inl ⟨by omega, hi, ‹_›, rfl⟩)
    · cases hg; exact .inr (.inr ⟨by omega, hi, by omega, rfl⟩)

/-! ## The quad steps -/

theorem encodeQuad_next {s t : State} (h : encodeQuad s = .next t) :
    s.oc + quadSize s.rem ≤ s.INT_LEN ∧ s.cc + 1 ≤ s.ENC_LEN ∧
    s.dc + (payloads (s.intWords s.oc (quadSize s.rem))).length ≤ s.ENC_LEN ∧
    t = (s.advance (quadControl (s.intWords s.oc (quadSize s.rem)))
          (payloads (s.intWords s.oc (quadSize s.rem))).length (quadSize s.rem)).withENC
        (Memory.writeList (Memory.writeList s.ENC s.cc [quadControl (s.intWords s.oc (quadSize s.rem))]) s.dc
          (payloads (s.intWords s.oc (quadSize s.rem)))) := by
  unfold encodeQuad at h
  simp only at h
  split at h
  · cases h
  · split at h
    · cases h
    · rename_i h1 h2
      simp only [not_or, not_not] at h1 h2
      cases h
      exact ⟨h1, h2.1, h2.2, rfl⟩

theorem scalarQuad_next {c : Byte} {s t : State} (h : scalarQuad c s = .next t) :
    (s.ENC_LEN < s.dc + quadLen c (quadSize s.rem) ∧
      t = raise .truncated (s.dc + quadLen c (quadSize s.rem)) s.ENC_LEN (s.withControl c)) ∨
    (s.dc + quadLen c (quadSize s.rem) ≤ s.ENC_LEN ∧ s.oc + quadSize s.rem ≤ s.INT_LEN ∧
      t = (s.advance c (quadLen c (quadSize s.rem)) (quadSize s.rem)).withINT
            (Memory.writeList s.INT s.oc (quadInts s.encByte s.dc c (quadSize s.rem)))) := by
  unfold scalarQuad at h
  simp only at h
  split at h
  · cases h; exact .inl ⟨by simp_all, rfl⟩
  · split at h
    · cases h
    · rename_i h1 h2
      simp only [not_not] at h1 h2
      cases h
      exact .inr ⟨h1, h2, rfl⟩

theorem simdQuad_next {c : Byte} {s t : State} (h : simdQuad c s = .next t) :
    s.dc + 16 ≤ s.ENC_LEN ∧ s.oc + 4 ≤ s.INT_LEN ∧
    t = ((s.advance c (ptab c) 4).withVectors (mtab c) (loadWindow s.encByte s.dc)
            (shuf (loadWindow s.encByte s.dc) (mtab c))).withINT
          (Memory.writeList s.INT s.oc ((List.range 4).map (vecLane (shuf (loadWindow s.encByte s.dc) (mtab c))))) := by
  unfold simdQuad at h
  simp only at h
  split at h
  · cases h
  · split at h
    · cases h
    · rename_i h1 h2
      simp only [not_not] at h1 h2
      cases h
      exact ⟨h1, h2, rfl⟩

theorem execQuad_next {b0 b1 b2 b3 : BitVec 2} {s t : State} (h : execQuad b0 b1 b2 b3 s = .next t) : quadDue s = true ∧
    ((s.phase = .simdBulk ∧ simdQuad (ctrlByte b0 b1 b2 b3) s = .next t) ∨
      (s.phase = .scalarTail ∧ scalarQuad (ctrlByte b0 b1 b2 b3) s = .next t)) := by
  unfold execQuad at h
  split at h
  · rename_i hd
    refine ⟨hd, ?_⟩
    split at h
    · exact .inl ⟨‹_›, h⟩
    · refine .inr ⟨?_, h⟩
      unfold quadDue at hd
      split at hd <;> simp_all
  · cases h

/-! ## The engine's step -/

/-- Everything the engine's step can do when it answers a next state (45_driver.md R162). -/
theorem engineStep_next {run : Instr → State → Result} {s t : State} (h : engineStep run s = .next t) :
    (s.busy = false ∧ t = s) ∨
    (s.phase = .encRun ∧ s.rem = 0 ∧ t = s.finish s.dc) ∨
    (s.phase = .encRun ∧ 0 < s.rem ∧ encodeQuad s = .next t) ∨
    (s.phase = .simdBulk ∧ guardHolds s = false ∧ t = s.withPhase .scalarTail) ∨
    (s.phase = .scalarTail ∧ s.rem = 0 ∧ t = s.finish s.dc) ∨
    (quadDue s = true ∧ (s.phase = .simdBulk ∨ s.phase = .scalarTail) ∧ s.cc + 1 ≤ s.ENC_LEN ∧
      run (decodeCtrl (s.encByte s.cc)) s = .next t) := by
  unfold engineStep at h
  split at h
  · rename_i hp
    unfold encodeStep at h
    split at h
    · cases h; exact .inr (.inl ⟨hp, ‹_›, rfl⟩)
    · exact .inr (.inr (.inl ⟨hp, by omega, h⟩))
  · rename_i hp
    unfold bulkStep at h
    split at h
    · rename_i hg
      unfold fetchQuad at h
      split at h
      · cases h
      · rename_i hc
        exact .inr (.inr (.inr (.inr (.inr ⟨by simp [quadDue, hp, hg], .inl hp, not_not.1 hc, h⟩))))
    · rename_i hg
      cases h
      exact .inr (.inr (.inr (.inl ⟨hp, by simpa using hg, rfl⟩)))
  · rename_i hp
    unfold tailStep at h
    split at h
    · cases h; exact .inr (.inr (.inr (.inr (.inl ⟨hp, ‹_›, rfl⟩))))
    · rename_i hr
      unfold fetchQuad at h
      split at h
      · cases h
      · rename_i hc
        exact .inr (.inr (.inr (.inr (.inr
          ⟨by simp [quadDue, hp]; omega, .inr hp, not_not.1 hc, h⟩))))
  all_goals
    rename_i hp
    cases h
    exact .inl ⟨by simp [State.busy, hp], rfl⟩

/-! ## The host's step -/

theorem hostWrite_next {run : Instr → State → Result} {r v : Nat} {s t : State} (h : hostWrite run r v s = .next t) :
    (registerCount ≤ r ∧ t = s) ∨
    (r < registerCount ∧ s.busy = false ∧ (HostOp.wr r v).wellFormed s.aw = true ∧
      ((r = 0 ∧ startCommand run (BitVec.ofNat 8 v) s = .next t) ∨ (r ≠ 0 ∧ t = s.storeOperand r v))) := by
  unfold hostWrite at h
  split at h
  · rename_i hr
    cases h
    exact .inl ⟨hr, rfl⟩
  · split at h
    · cases h
    · split at h
      · cases h
      · rename_i hr hb hw
        refine .inr ⟨Nat.lt_of_not_le hr, by simpa using hb, by simpa using hw, ?_⟩
        split at h
        · exact .inl ⟨‹_›, h⟩
        · cases h; exact .inr ⟨‹_›, rfl⟩

/-- A write to a number that is no register leaves the unit as it is, busy or not. -/
theorem hostWrite_no_register {run : Instr → State → Result} {r : Nat} (hr : registerCount ≤ r) (v : Nat) (s : State) :
    hostWrite run r v s = .next s := by
  unfold hostWrite
  rw [if_pos hr]

theorem bufferAccess_next {op : HostOp} {s u t : State} (h : bufferAccess op s u = .next t) :
    s.busy = false ∧ op.wellFormed s.aw = true ∧ t = u := by
  unfold bufferAccess at h
  split at h
  · cases h
  · split at h
    · cases h
    · rename_i hb hw
      cases h
      exact ⟨by simpa using hb, by simpa using hw, rfl⟩

theorem startCommand_next {run : Instr → State → Result} {v : Byte} {s t : State} (h : startCommand run v s = .next t) :
    (∃ i, decodeCmd v = .ok i ∧ run i (s.withCMD v) = .next t) ∨
    ((∃ r, decodeCmd v = .error r) ∧ t = raise .illegalCmd 0 0 (s.withCMD v)) := by
  unfold startCommand at h
  split at h
  · exact .inl ⟨_, ‹_›, h⟩
  · cases h; exact .inr ⟨⟨_, ‹_›⟩, rfl⟩

/-- A host read changes nothing but the record of reads and the draw counter. -/
theorem hostRead_eq (r : Nat) (s : State) :
    ∃ rs d, hostRead r s = { s with readouts := rs, draws := d } := by
  unfold hostRead
  split
  · exact ⟨_, s.draws, rfl⟩
  · exact ⟨_, _, rfl⟩

end Sys2Proof.Machine
end

