-- ==== Sys2Proof/Laws/PerInstr.lean ====
section
/-! SUPPORT. Laws/PerInstr.lean: the family `EncodesItsRow`: the word of every instruction has the fixed bits that
spec/opcode_table.json gives its row. -/

namespace Sys2Proof.Laws.EncodesItsRow

/-- The encoded word, under the row's mask, is the row's pattern. -/
def Statement (i : Instr) : Prop := encode i &&& (tableRow i).mask = (tableRow i).pattern

theorem blen : Statement .blen := by unfold Statement; decide

theorem clen : Statement .clen := by unfold Statement; decide

theorem mlen : Statement .mlen := by unfold Statement; decide

theorem enc : Statement .enc := by unfold Statement; decide

theorem decS : Statement .decS := by unfold Statement; decide

theorem decV : Statement .decV := by unfold Statement; decide

theorem quad (b0 b1 b2 b3 : BitVec 2) : Statement (.quad b0 b1 b2 b3) := by simp [Statement, tableRow]

end Sys2Proof.Laws.EncodesItsRow
end

