-- ==== Sys2Proof/Tests/Slice0.lean ====
section
/-! SUPPORT. Tests/Slice0.lean: the model's own tests: decoding of words written out from the spec's encodings, the checks that
refuse, one step at a time against 95_test_vectors.md, and a witness for the hypotheses of every statement. -/

namespace Sys2Proof.Tests

open Sys2Proof Sys2Proof.Machine

/-! ## Helpers -/

/-- The step went to a next state that passes the check. -/
def goes (r : Result) (check : State → Bool) : Bool :=
  match r with
  | .next t => check t
  | .fault _ => false
  | .refused _ => false

/-- The step was refused for this reason. -/
def refusedFor (r : Result) (why : Refusal) : Bool :=
  match r with
  | .next _ => false
  | .fault _ => false
  | .refused w => decide (w = why)

/-- A unit of width 16 after reset whose operand registers the host has written. -/
def unit16 (n : Nat) (x : Word) (encLen intLen : Nat) : State :=
  { State.resetWith 16 with
    N := n, X := x, ENC_LEN := encLen, INT_LEN := intLen,
    nWritten := true, xWritten := true, encLenWritten := true, intLenWritten := true }

/-- A unit in the middle of a decode of `n` integers with strategy and phase as given, nothing done yet. -/
def decoding (st : Strategy) (ph : Phase) (n encLen : Nat) (bytes : List Byte) : State :=
  ((unit16 n 0 encLen n).withENC (Memory.writeList [] 0 bytes)).latch n st ph

/-- A unit in the middle of an encode of the given integers, nothing done yet. -/
def encoding (xs : List Word) (encLen : Nat) : State :=
  ((unit16 0 0 encLen xs.length).withINT (Memory.writeList [] 0 xs)).latch xs.length .scalar .encRun

/-- The stream of [1, 256, 65536, 16777216] (95_test_vectors.md 1.1, scenario 4). -/
def stream4 : List Byte := [0xE4, 0x01, 0x00, 0x01, 0x00, 0x00, 0x01, 0x00, 0x00, 0x00, 0x01]

/-! ## Decoding: words written out bit by bit from 30_encoding.md R82 and R84 -/

theorem test_decode_blen : decodeCmd 0b00000001 = .ok .blen := rfl
theorem test_decode_clen : decodeCmd 0b00000010 = .ok .clen := rfl
theorem test_decode_mlen : decodeCmd 0b00000011 = .ok .mlen := rfl
theorem test_decode_enc : decodeCmd 0b00000100 = .ok .enc := rfl
theorem test_decode_decS : decodeCmd 0b00001000 = .ok .decS := rfl
theorem test_decode_decV : decodeCmd 0b00001001 = .ok .decV := rfl
theorem test_decode_quad : decodeCtrl 0b11100100 = .quad 0 1 2 3 := by decide
theorem test_decode_quad_scenario5 : decodeCtrl 0b01000000 = .quad 0 0 0 1 := by decide
theorem test_decode_illegal_zero : decodeCmd 0x00 = .error (.illegalOpcode 0x00) := rfl
theorem test_decode_illegal_next_to_decV : decodeCmd 0x0A = .error (.illegalOpcode 0x0A) := rfl

theorem test_encode_quad : encode (.quad 0 1 2 3) = 0b11100100 := by decide

theorem test_command_rows_have_distinct_opcodes : (commandRows.map Prod.fst).Nodup := by decide

theorem test_wellFormed_admits_every_control_byte : ∀ b0 b1 b2 b3, (Instr.quad b0 b1 b2 b3).wellFormed = true := by
  intros; rfl

/-! ## The checks on the host's actions refuse ill-formed ones (Machine/Host.lean) -/

theorem test_wellFormed_count_too_wide : (HostOp.wr 2 (2 ^ 16)).wellFormed 16 = false := by decide
theorem test_wellFormed_command_too_wide : (HostOp.wr 0 256).wellFormed 16 = false := by decide
theorem test_wellFormed_x_too_wide : (HostOp.wr 3 (2 ^ 32)).wellFormed 16 = false := by decide
theorem test_wellFormed_enc_len_too_wide : (HostOp.wr 4 (2 ^ 16)).wellFormed 16 = false := by decide
theorem test_wellFormed_int_len_too_wide : (HostOp.wr 5 (2 ^ 16)).wellFormed 16 = false := by decide
theorem test_wellFormed_fill_enc_outside : (HostOp.fillEnc (2 ^ 16) [0]).wellFormed 16 = false := by decide
theorem test_wellFormed_fill_int_outside : (HostOp.fillInt (2 ^ 16) [0]).wellFormed 16 = false := by decide
theorem test_wellFormed_dump_enc_outside : (HostOp.dumpEnc 1 (2 ^ 16)).wellFormed 16 = false := by decide
theorem test_wellFormed_dump_int_outside : (HostOp.dumpInt (2 ^ 16) 1).wellFormed 16 = false := by decide

theorem test_step_refuses_too_wide :
    refusedFor (step ((unit16 0 0 0 0).withHost [.wr 2 (2 ^ 16)])) .hostValueTooWide = true := by decide

/-- R22 and R212: while busy a write to number 9 is ignored, one to register 8 is refused. -/
theorem test_step_busy_write :
    goes (step ((encoding [1] 5).withHost [.wr 9 1])) (fun t => t.host == [] && t.phase == .encRun) &&
      refusedFor (step ((encoding [1] 5).withHost [.wr 8 1])) .hostAccessWhileBusy = true := by decide

theorem test_step_refuses_outside_space :
    refusedFor (step ((unit16 0 0 0 0).withHost [.fillEnc (2 ^ 16) [0]])) .hostOutsideSpace = true := by decide

/-! ## A word placed by the host's fetch is run by the next step, from reset -/

theorem test_fetch_blen : goes (step (State.reset.withFetchWord 8 0x01)) (fun t => t.RESULT == 1) = true := by decide
theorem test_fetch_clen : goes (step (State.reset.withFetchWord 8 0x02)) (fun t => t.phase == .done) = true := by decide
theorem test_fetch_mlen : goes (step (State.reset.withFetchWord 8 0x03)) (fun t => t.phase == .done) = true := by decide
theorem test_fetch_enc : goes (step (State.reset.withFetchWord 8 0x04)) (fun t => t.phase == .encRun) = true := by decide
theorem test_fetch_decS : goes (step (State.reset.withFetchWord 8 0x08)) (fun t => t.phase == .scalarTail) = true := by
  decide
theorem test_fetch_decV : goes (step (State.reset.withFetchWord 8 0x09)) (fun t => t.phase == .simdBulk) = true := by
  decide
theorem test_fetch_quad :
    goes (step (State.reset.withFetchWord 8 0x00)) (fun t => t.cc == 1 && t.dc == 5 && t.oc == 4) = true := by decide

/-! ## One step each, against 95_test_vectors.md -/

/-- Section 2.1: 65535 takes 2 bytes, 65536 takes 3. -/
theorem test_blen_boundary :
    goes (exec .blen (unit16 0 65535 0 0)) (fun t => t.RESULT == 2) &&
      goes (exec .blen (unit16 0 65536 0 0)) (fun t => t.RESULT == 3) = true := by decide

/-- Section 2.1: 9 -> 3. -/
theorem test_clen_rounds_up : goes (exec .clen (unit16 9 0 0 0)) (fun t => t.RESULT == 3) = true := by decide

/-- Section 2.1, AW = 16: 15420 -> 65535. -/
theorem test_mlen_largest : goes (exec .mlen (unit16 15420 0 0 0)) (fun t => t.RESULT == 65535) = true := by decide

/-- Section 2.1, AW = 16: 15421 -> CONTRACT (65535, 0). -/
theorem test_mlen_contract : goes (exec .mlen (unit16 15421 0 0 0)) (fun t =>
    t.errCode == some .contract && t.ERR_EXPECTED == 65535 && t.ERR_AVAILABLE == 0 && t.RESULT == 0) = true := by decide

/-- Section 2.3: a destination of 16 bytes is refused for four integers, 17 is enough. -/
theorem test_enc_capacity : goes (exec .enc (unit16 0 0 16 4)) (fun t =>
    t.errCode == some .capacity && t.ERR_EXPECTED == 17 && t.ERR_AVAILABLE == 16) &&
      goes (exec .enc (unit16 0 0 17 4)) (fun t => t.dc == 1 && t.rem == 4) = true := by decide

/-- R123's example. -/
theorem test_enc_quad_step : goes (step (encoding [1, 256, 65536, 16777216] 17)) (fun t =>
    t.encBytes 0 11 == stream4 && t.cc == 1 && t.dc == 11 && t.oc == 4 && t.rem == 0) = true := by decide

/-- Section 2.3: [300, 5] is `01 | 2C 01 05`, a partial quad. -/
theorem test_enc_partial_quad : goes (step (encoding [300, 5] 9)) (fun t =>
    t.encBytes 0 4 == [0x01, 0x2C, 0x01, 0x05]) = true := by decide

/-- Section 2.6: N = 100, ENC_LEN = 10, INT_LEN = 0 reports CONTRACT (125, 10), not CAPACITY. -/
theorem test_decS_contract_first : goes (exec .decS (unit16 100 0 10 0)) (fun t =>
    t.errCode == some .contract && t.ERR_EXPECTED == 125 && t.ERR_AVAILABLE == 10) = true := by decide

/-- R131, R39: with INT_LEN never written CONTRACT is still reported, and without it the read of INT_LEN is refused. -/
theorem test_decV_unwritten_int_len :
    goes (exec .decV { unit16 100 0 10 0 with intLenWritten := false }) (fun t => t.errCode == some .contract) &&
      refusedFor (exec .decV { unit16 4 0 11 4 with intLenWritten := false }) .operandNeverWritten = true := by decide

/-- Section 2.6: the 11-byte stream, N = 4, INT_LEN = 3 reports CAPACITY (4, 3). -/
theorem test_decV_capacity : goes (exec .decV (unit16 4 0 11 3)) (fun t =>
    t.errCode == some .capacity && t.ERR_EXPECTED == 4 && t.ERR_AVAILABLE == 3) = true := by decide

/-- Section 2.4: `E4 ...` with N = 3: a partial quad of 6 payload bytes. -/
theorem test_quad_scalar_partial : goes (step (decoding .scalar .scalarTail 3 11 stream4)) (fun t =>
    t.intWords 0 3 == [1, 256, 65536] && t.dc == 7 && t.rem == 0) = true := by decide

/-- R142's example: the six bytes after the stream do not matter. -/
theorem test_quad_simd : goes (step (decoding .simd .simdBulk 4 17 (stream4 ++ [0xAA, 0xBB, 0xCC, 0xDD, 0xEE, 0xFF])))
    (fun t => t.intWords 0 4 == [1, 256, 65536, 16777216] && t.dc == 11 && t.rem == 0 && t.p == 10) = true := by decide

/-- Section 2.6: the last byte missing: TRUNCATED (11, 10). -/
theorem test_quad_truncated : goes (step (decoding .scalar .scalarTail 4 10 (stream4.take 10))) (fun t =>
    t.errCode == some .truncated && t.ERR_EXPECTED == 11 && t.ERR_AVAILABLE == 10 && t.RESULT == 0) = true := by decide

/-- Section 2.6: `WR CMD, 0x00` ends ILLEGAL_CMD, STATUS 0x45. -/
theorem test_illegal_command : goes (step ((unit16 0 0 0 0).withCommand 0x00)) (fun t => t.statusWord == 0x45) = true := by
  decide

/-- R118: the row `0x1B`, and the checks at the end of 46_shuffle_table_listing.md on the payload lengths. -/
theorem test_mtab_1B : (List.range 16).map (vecByte (mtab 0x1B)) =
    [0x00, 0x01, 0x02, 0x03, 0x04, 0x05, 0x06, 0x80, 0x07, 0x08, 0x80, 0x80, 0x09, 0x80, 0x80, 0x80] := by decide

/-- Section 1.1, scenario 5 as the rules give it: control byte 0x40. -/
theorem test_encodeFn_scenario5 : encodeFn [0, 100, 200, 300] = [0x40, 0x00, 0x64, 0xC8, 0x2C, 0x01] := by decide

/-- Section 2.4: `FC 07`, n = 1 gives ([7], 2). -/
theorem test_decodeFn_ignores_high_fields :
    decodeFn (fun a => [0xFC, 0x07].getD a 0) 2 1 = .ok ([7], 2) := rfl

/-! ## Witnesses: each statement's hypotheses are met together -/

theorem witness_CommandWordsDecodeAsListed : (0xFF : Byte) ∉ ([0x01, 0x02, 0x03, 0x04, 0x08, 0x09] : List Byte) := by
  decide

theorem witness_ControlByteIsItsFields : decodeCtrl 0xFF = .quad 3 3 3 3 := by decide

theorem witness_DecodingInvertsEncoding :
    (Instr.quad 3 0 2 1).wellFormed = true ∧ decodeAs true 0x09 = .ok .decV ∧ decodeAs false 0x09 = .ok (.quad 1 2 0 0) :=
  ⟨rfl, rfl, rfl⟩

theorem witness_ByteLengthIsMinimal : 1 ≤ 2 ∧ (0xFFFF : Word).toNat < 2 ^ (8 * 2) := by decide

theorem witness_ControlStreamLenIsCeiling : 4 ≤ 4 * 1 ∧ 5 ≤ 4 * 2 := by decide

theorem witness_LengthCodesUnpack : (3 < 4) ∧ 1 ≤ 4 ∧ 4 ≤ 4 ∧ 1 ≤ 1 := by decide

theorem witness_QuadLenSumsLengths : 1 ≤ 4 ∧ 4 ≤ 4 := by decide

theorem witness_PayloadIsLittleEndian : 1 ≤ 4 ∧ 4 ≤ 4 ∧ 3 < (payload 0xFFFFFFFF).length := by decide

theorem witness_TableIsGenerated : 3 < 4 ∧ 0 < 4 := by decide

theorem witness_TableFacts : 15 < 16 ∧ vecByte (mtab 0xFF) 15 = 0x0F ∧ mtab 0x1B = mtab 0x1B := by decide

theorem witness_ShuffleSelectsBytes : 15 < 16 := by decide

theorem witness_ShuffleAssemblesIntegers : 3 < 4 ∧ ∀ j < ptab 0x00, vecByte (1 <<< 127 : V128) j = vecByte 0 j := by
  decide

theorem witness_BlenGivesByteLength : (unit16 0 0 0 0).busy = false ∧ (unit16 0 0 0 0).xWritten = true := by decide

theorem witness_ClenGivesControlLength : (unit16 5 0 0 0).busy = false ∧ (unit16 5 0 0 0).nWritten = true := by decide

theorem witness_MlenGivesMaximumOrContract :
    (unit16 15420 0 0 0).busy = false ∧ (unit16 15420 0 0 0).nWritten = true ∧
      (15420 + 3) / 4 + 4 * 15420 < 2 ^ 16 ∧ 2 ^ 16 ≤ (15421 + 3) / 4 + 4 * 15421 := by decide

theorem witness_EncodeStartStep :
    let s := unit16 0 0 17 4
    let u := unit16 0 0 16 4
    s.busy = false ∧ s.encLenWritten = true ∧ s.intLenWritten = true ∧ maxEncodedLen s.INT_LEN ≤ s.ENC_LEN ∧
      u.busy = false ∧ u.encLenWritten = true ∧ u.intLenWritten = true ∧ u.ENC_LEN < maxEncodedLen u.INT_LEN := by decide

theorem witness_EncodeQuadStep :
    let s := encoding [300, 5] 9
    s.host = [] ∧ s.phase = .encRun ∧ 0 < s.rem ∧ s.cc < s.dc ∧ s.oc + min 4 s.rem ≤ s.INT_LEN ∧
      s.dc + ((s.intWords s.oc (min 4 s.rem)).map byteLength).sum ≤ s.ENC_LEN ∧
      1 < min 4 s.rem ∧ 0 < byteLength (s.intWord (s.oc + 1)) ∧ 4 ≠ s.cc := by decide

theorem witness_EndStep :
    let s := encoding [] 0
    let u := decoding .scalar .scalarTail 0 0 []
    s.host = [] ∧ s.phase = .encRun ∧ s.rem = 0 ∧ u.host = [] ∧ u.phase = .scalarTail ∧ u.rem = 0 := by decide

theorem witness_EncodedStreamLayout :
    0 < controlStreamLen ([300, 5] : List Word).length ∧ ([300, 5] : List Word)[1]? = some 5 ∧ 0 < byteLength 5 := by
  decide

theorem witness_EncodeCommandWritesTheStream :
    let s := (unit16 0 0 17 4).withINT (Memory.writeList [] 0 [1, 256, 65536, 16777216])
    s.busy = false ∧ s.encLenWritten = true ∧ s.intLenWritten = true ∧ maxEncodedLen s.INT_LEN ≤ s.ENC_LEN := by decide

/-- Each clause at the value of `ENC_LEN` where CONTRACT begins and ends. -/
theorem witness_DecodeStartStep :
    let s := unit16 4 0 5 4
    let u := { unit16 100 0 124 0 with intLenWritten := false }
    let w := unit16 4 0 5 3
    (s.busy = false ∧ s.nWritten = true ∧ s.encLenWritten = true ∧ s.intLenWritten = true ∧
      controlStreamLen s.N + s.N = s.ENC_LEN ∧ s.N = s.INT_LEN) ∧
    (u.busy = false ∧ u.nWritten = true ∧ u.encLenWritten = true ∧ u.ENC_LEN + 1 = controlStreamLen u.N + u.N) ∧
    (w.busy = false ∧ w.decodeOperandsWritten = true ∧ controlStreamLen w.N + w.N = w.ENC_LEN ∧ w.INT_LEN + 1 = w.N) := by
  decide

theorem witness_ScalarQuadStep :
    let s := decoding .scalar .scalarTail 4 11 stream4
    let u := decoding .scalar .scalarTail 4 10 (stream4.take 10)
    (s.phase = .scalarTail ∧ 0 < s.rem ∧ s.host = [] ∧ s.cc < s.ENC_LEN ∧ s.encByte s.cc = ctrlByte 0 1 2 3 ∧
      s.dc + quadLen (ctrlByte 0 1 2 3) (min 4 s.rem) ≤ s.ENC_LEN ∧ s.oc + min 4 s.rem ≤ s.INT_LEN) ∧
    (u.phase = .scalarTail ∧ 0 < u.rem ∧ u.ENC_LEN < u.dc + quadLen (ctrlByte 0 1 2 3) (min 4 u.rem)) := by decide

theorem witness_SimdIteration :
    let s := decoding .simd .simdBulk 4 17 stream4
    s.phase = .simdBulk ∧ 4 ≤ s.rem ∧ s.dc + 16 ≤ s.ENC_LEN ∧ s.oc + 4 ≤ s.INT_LEN ∧ s.host = [] ∧ s.cc < s.ENC_LEN ∧
      s.encByte s.cc = ctrlByte 0 1 2 3 := by decide

theorem witness_SwitchStep :
    let s := decoding .simd .simdBulk 4 16 stream4
    s.host = [] ∧ s.phase = .simdBulk ∧ ¬ (4 ≤ s.rem ∧ s.dc + 16 ≤ s.ENC_LEN) := by decide

theorem witness_GuardStaysFalse :
    let s := decoding .simd .simdBulk 4 16 stream4
    ∃ t, step s = .next t ∧ (∀ rest, s.host ≠ .reset :: rest) ∧ s.phase = .simdBulk ∧ t.phase = .scalarTail ∧
      guardHolds s = false :=
  ⟨_, rfl, (fun _ h => by cases h), rfl, rfl, rfl⟩

theorem witness_SimdIterationMatchesScalarQuad :
    let s := decoding .simd .simdBulk 4 17 stream4
    guardHolds s = true ∧ s.oc + 4 ≤ s.INT_LEN := by decide

theorem witness_WindowOverreadIsHarmless :
    let s := decoding .simd .simdBulk 4 17 (stream4 ++ [0xAA, 0xBB, 0xCC, 0xDD, 0xEE, 0xFF])
    let e := Memory.write s.ENC 11 0x55
    s.phase = .simdBulk ∧
    (∀ a, a < s.dc + ptab (ctrlByte 0 1 2 3) ∨ s.dc + 16 ≤ a → State.encByte { s with ENC := e } a = s.encByte a) ∧
    ∃ t, exec (.quad 0 1 2 3) s = .next t := by
  refine ⟨rfl, fun a ha => ?_, ⟨_, rfl⟩⟩
  have hd : (decoding .simd .simdBulk 4 17 (stream4 ++ [0xAA, 0xBB, 0xCC, 0xDD, 0xEE, 0xFF])).dc = 1 := rfl
  have hp : ptab (ctrlByte 0 1 2 3) = 10 := by decide
  have hne : a ≠ 11 := by omega
  simp only [State.encByte, Memory.read_write_other _ _ hne]

theorem witness_PartialQuadIgnoresHighFields :
    let s := decoding .scalar .scalarTail 2 11 stream4
    s.phase = .scalarTail ∧ 0 < s.rem ∧ s.rem < 4 ∧ (1 < s.rem) ∧ ¬ (2 < s.rem) ∧
      ∃ t, exec (.quad 0 1 2 3) s = .next t :=
  ⟨rfl, by decide, by decide, by decide, by decide, ⟨_, rfl⟩⟩

theorem witness_DecodeCommandsMeetDecodeFn :
    let s := (unit16 4 0 11 4).withENC (Memory.writeList [] 0 stream4)
    s.busy = false ∧ s.decodeOperandsWritten = true := by decide

theorem witness_SimdDecodeEqualsScalarDecode :
    let s := (unit16 4 0 17 4).withENC (Memory.writeList [] 0 stream4)
    s.busy = false ∧ s.decodeOperandsWritten = true := by decide

theorem witness_TrailingBytesAreIgnored :
    decodeFn (fun a => [0xFC, 0x07, 0x55].getD a 0) 3 1 = .ok ([7], 2) ∧
      (∀ a < 2, ([0xFC, 0x07, 0xAA] : List Byte).getD a 0 = ([0xFC, 0x07, 0x55] : List Byte).getD a 0) ∧ 2 ≤ 3 :=
  ⟨rfl, by decide, by decide⟩

theorem witness_ErrorEntry : ErrorKind.capacity ≠ .truncated ∧ (encoding [300, 5] 9).n ≤ 2 := by decide

theorem witness_StartErrorsArePrecise :
    Instr.isCommand .enc = true ∧ ∃ t, exec .enc (unit16 0 0 16 4) = .next t ∧ t.phase = .error :=
  ⟨rfl, _, rfl, rfl⟩

theorem witness_IllegalCommandWrite :
    let s := (unit16 0 0 0 0).withCommand 0xFF
    s.host = .wr 0 0xFF :: [] ∧ s.busy = false ∧ 0xFF < 256 ∧ 0xFF ∉ [0x01, 0x02, 0x03, 0x04, 0x08, 0x09] := by decide

theorem witness_UnwrittenOperandIsRefused :
    State.reset.busy = false ∧ State.reset.xWritten = false ∧ State.reset.nWritten = false ∧
      State.reset.encLenWritten = false ∧ State.reset.intLenWritten = false ∧
      controlStreamLen State.reset.N + State.reset.N ≤ State.reset.ENC_LEN := by decide

theorem witness_BusyHostAccessIsRefused :
    let s := encoding [1] 5
    s.busy = true ∧ (s.withHost [.wr 2 0]).host = .wr 2 0 :: [] ∧ (s.withHost [.wr 9 0]).host = .wr 9 0 :: [] ∧
      (s.withHost [.fillEnc 0 [7]]).host = .fillEnc 0 [7] :: [] ∧ (s.withHost [.fillInt 0 [7]]).host = .fillInt 0 [7] :: [] ∧
      (s.withHost [.dumpEnc 0 5]).host = .dumpEnc 0 5 :: [] ∧ (s.withHost [.dumpInt 0 1]).host = .dumpInt 0 1 :: [] ∧
      (s.withHost [.rd 1]).host = .rd 1 :: [] ∧ Instr.isCommand .blen = true := by decide

theorem witness_ControlByteOutOfTurnIsRefused :
    let s := unit16 4 0 17 4
    ¬ (s.phase = .simdBulk ∧ 4 ≤ s.rem ∧ s.dc + 16 ≤ s.ENC_LEN) ∧ ¬ (s.phase = .scalarTail ∧ 0 < s.rem) := by decide

theorem witness_RegisterFile :
    let s := unit16 0 0 0 0
    s.busy = false ∧ 65535 < 2 ^ s.aw ∧ 4294967295 < 2 ^ 32 ∧ (s.withHost [.wr 2 65535]).host = .wr 2 65535 :: [] ∧
      (s.withHost [.wr 3 4294967295]).host = .wr 3 4294967295 :: [] ∧ (s.withHost [.wr 4 65535]).host = .wr 4 65535 :: [] ∧
      (s.withHost [.wr 5 65535]).host = .wr 5 65535 :: [] ∧ (s.withHost [.wr 6 1]).host = .wr 6 1 :: [] ∧ (1 = 1 ∨ 6 ≤ 1) := by
  decide

/-- The clauses on too-wide writes, each at the first value that does not fit. -/
theorem witness_RegisterFile_tooWide :
    let s := unit16 0 0 0 0
    (s.withHost [.wr 0 256]).host = .wr 0 256 :: [] ∧ 2 ^ 8 ≤ 256 ∧
      (s.withHost [.wr 3 4294967296]).host = .wr 3 4294967296 :: [] ∧ 2 ^ 32 ≤ 4294967296 ∧
      (s.withHost [.wr 5 65536]).host = .wr 5 65536 :: [] ∧ 2 ^ s.aw ≤ 65536 := by decide

/-- The clauses on reads: right after reset STATUS and number 9 answer, and the operands are unwritten; RESULT answers with
one operand written only. -/
theorem witness_RegisterFile_reads :
    let s := State.resetWith 16
    s.busy = false ∧ (s.withHost [.rd 1]).host = .rd 1 :: [] ∧ (s.withHost [.rd 9]).host = .rd 9 :: [] ∧
      (s.withHost [.rd 6]).host = .rd 6 :: [] ∧ (s.withHost [.rd 3]).host = .rd 3 :: [] ∧ s.nWritten = false ∧
      s.xWritten = false ∧ s.encLenWritten = false ∧ s.intLenWritten = false ∧
      (s.storeOperand 3 300).xWritten = true := by decide

theorem witness_ResetEvent : ((encoding [1] 5).withHost [.reset]).host = .reset :: [] ∧
    ((encoding [1] 5).withHost [.reset]).phase = .encRun ∧ ((unit16 0 0 0 0).withHost [.reset]).busy = false ∧
    ((decoding .simd .simdBulk 4 17 stream4).withHost [.reset]).phase = .simdBulk := by decide

theorem witness_StepRunsTheCommand :
    let s := (unit16 0 0 0 0).withCommand 0x09
    s.host = .wr 0 0x09 :: [] ∧ s.busy = false ∧ 0x09 < 256 ∧ decodeCmd (BitVec.ofNat 8 0x09) = .ok .decV :=
  ⟨rfl, rfl, by decide, rfl⟩

theorem witness_StepRunsTheControlByte :
    let s := decoding .simd .simdBulk 4 17 stream4
    quadDue s = true ∧ s.cc < s.ENC_LEN ∧ s.host = [] ∧ (s.withHost [.wait]).host = .wait :: [] ∧
      (s.withHost [.pass]).host = .pass :: [] := by decide

/-- Every row of the phase machine: reset, a start, an illegal command, the engine's seven rows, a host write that is no start. -/
theorem witness_PhaseMovesOnlyAsListed :
    goes (step ((encoding [300, 5] 9).withHost [.reset])) (fun t => t.phase == .idle) &&
    goes (step ((unit16 0 0 0 0).withCommand 0x04)) (fun t => t.phase == .encRun) &&
    goes (step ((unit16 0 0 0 0).withCommand 0x05)) (fun t => t.phase == .error && t.errCode == some .illegalCmd) &&
    goes (step (encoding [300, 5] 9)) (fun t => t.phase == .encRun) &&
    goes (step (encoding [] 0)) (fun t => t.phase == .done) &&
    goes (step (decoding .simd .simdBulk 4 17 stream4)) (fun t => t.phase == .simdBulk) &&
    goes (step (decoding .simd .simdBulk 4 16 stream4)) (fun t => t.phase == .scalarTail) &&
    goes (step (decoding .scalar .scalarTail 4 11 stream4)) (fun t => t.phase == .scalarTail) &&
    goes (step (decoding .scalar .scalarTail 4 10 stream4)) (fun t => t.errCode == some .truncated) &&
    goes (step (decoding .scalar .scalarTail 0 0 [])) (fun t => t.phase == .done) &&
    goes (step ((unit16 0 0 0 0).withHost [.wr 2 5])) (fun t => t.phase == .idle) &&
    goes (step ((encoding [300, 5] 9).withHost [.wr 9 1])) (fun t => t.phase == .encRun) &&
    goes (step ((encoding [300, 5] 9).withHost [.rd 1])) (fun t => t.phase == .encRun) = true := by decide

theorem witness_IdleEngineDoesNothing : State.reset.host = [] ∧ State.reset.busy = false := by decide

theorem witness_OperandsAreTheHosts :
    (∃ t, step (encoding [300, 5] 9) = .next t) ∧ (∀ r v rest, (encoding [300, 5] 9).host ≠ .wr r v :: rest) ∧
      ∀ rest, (encoding [300, 5] 9).host ≠ .reset :: rest :=
  ⟨⟨_, rfl⟩, fun _ _ _ h => (by cases h), fun _ h => (by cases h)⟩

theorem witness_ResultChangesOnlyAtTheEnd :
    let s := { encoding [] 0 with dc := 7 }
    ∃ t, step s = .next t ∧ (∀ rest, s.host ≠ .reset :: rest) ∧ t.RESULT ≠ s.RESULT :=
  ⟨_, rfl, fun _ h => (by cases h), by decide⟩

theorem witness_OnlyTheDestinationIsWritten :
    (∃ t, step (encoding [300, 5] 9) = .next t) ∧ (encoding [300, 5] 9).phase = .encRun ∧
      (∃ t, step (decoding .simd .simdBulk 4 17 stream4) = .next t) ∧
      (decoding .simd .simdBulk 4 17 stream4).phase = .simdBulk ∧
      ∀ rest, (decoding .simd .simdBulk 4 17 stream4).host ≠ .reset :: rest :=
  ⟨⟨_, rfl⟩, rfl, ⟨_, rfl⟩, rfl, fun _ h => (by cases h)⟩

theorem witness_ResetMeetsInvariant : 8 ≤ Config.aw := by decide

/-- An encode of one integer, started and with nothing done yet, meets the invariant. -/
theorem encoding_one_meets_invariant : (encoding [300] 5).Inv where
  widths := by constructor <;> decide
  encMem := Memory.Ok.nil _
  intMem := Memory.Ok.writeList (Memory.Ok.nil _) (by decide)
  err_iff := by decide
  cursors := fun _ => by constructor <;> decide
  encoding := fun _ => by constructor <;> decide
  decoding := fun h => by rcases h with h | h <;> cases h
  bulk := fun h => by cases h

theorem witness_StepKeepsInvariant : (encoding [300] 5).Inv ∧ ∃ t, step (encoding [300] 5) = .next t :=
  ⟨encoding_one_meets_invariant, _, rfl⟩

theorem witness_NoAccessLeavesItsBuffer : (encoding [300] 5).Inv := encoding_one_meets_invariant

theorem witness_EngineNeverStops : (encoding [300] 5).Inv ∧ (encoding [300] 5).host = [] :=
  ⟨encoding_one_meets_invariant, rfl⟩

theorem witness_EveryCommandEnds :
    (encoding [300] 5).Inv ∧ (encoding [300] 5).host = [] ∧ (encoding [300] 5).busy = true :=
  ⟨encoding_one_meets_invariant, rfl, rfl⟩

theorem witness_StatusLayout : (encoding [300] 5).Inv ∧
    ((unit16 0 0 0 0).withHost [.wr 1 255]).host = .wr 1 255 :: [] ∧ (unit16 0 0 0 0).busy = false :=
  ⟨encoding_one_meets_invariant, rfl, rfl⟩

theorem witness_BusyReadsAnswer :
    let s := { encoding [1] 5 with xWritten := false }
    s.busy = true ∧ (s.withHost [.rd 2]).host = .rd 2 :: [] ∧ s.nWritten = true ∧ (s.withHost [.rd 9]).host = .rd 9 :: [] ∧
      (s.withHost [.rd 6]).host = .rd 6 :: [] ∧ (s.withHost [.rd 8]).host = .rd 8 :: [] ∧
      (s.withHost [.rd 3]).host = .rd 3 :: [] ∧ s.xWritten = false := by decide

/-- Each clause at the last cell that AW bits can name, and at the first that leaves them. -/
theorem witness_HostFillsAndDumpsBuffers :
    let s := unit16 0 0 0 0
    s.busy = false ∧ (s.withHost [.fillEnc 65535 [7]]).host = .fillEnc 65535 [7] :: [] ∧ 65535 + [7].length ≤ 2 ^ s.aw ∧
      (s.withHost [.fillInt 65535 [7]]).host = .fillInt 65535 [7] :: [] ∧
      (s.withHost [.dumpEnc 65535 1]).host = .dumpEnc 65535 1 :: [] ∧ 65535 + 1 ≤ 2 ^ s.aw ∧
      (s.withHost [.dumpInt 65535 1]).host = .dumpInt 65535 1 :: [] ∧
      (s.withHost [.fillEnc 65536 [7]]).host = .fillEnc 65536 [7] :: [] ∧ 2 ^ s.aw < 65536 + [7].length ∧
      (s.withHost [.fillInt 65536 [7]]).host = .fillInt 65536 [7] :: [] ∧
      (s.withHost [.dumpEnc 65536 1]).host = .dumpEnc 65536 1 :: [] ∧ 2 ^ s.aw < 65536 + 1 ∧
      (s.withHost [.dumpInt 65536 1]).host = .dumpInt 65536 1 :: [] := by decide

/-- While busy, the engine's step a next state or (outside the invariant) a fault; in DONE; in IDLE. -/
theorem witness_WaitAndPassRunTheEngine :
    let s := encoding [1] 5
    let u := decoding .scalar .scalarTail 4 0 []
    s.busy = true ∧ (s.withHost [.wait]).host = .wait :: [] ∧ (s.withHost [.pass]).host = .pass :: [] ∧
      goes (step (s.withHost [])) (fun t => t.phase == .encRun) = true ∧ u.busy = true ∧
      (match step u with | .fault .encOutOfBounds => true | _ => false) = true ∧
      (s.withPhase .done).phase = .done ∧ (s.withPhase .idle).phase = .idle := by decide

end Sys2Proof.Tests
end

section
/-! STATUS as the host reads it (10_state.md R24): its two fields and its reserved bits, which phases are busy and which
ended, and the register numbers that ignore a host write (R22). -/

namespace Sys2Proof.Machine

/-! ## The numbers of the phases and of the errors -/

theorem phaseNumber_lt (p : Phase) : phaseNumber p < 8 := by cases p <;> decide

theorem errNumber_lt (e : Option ErrorKind) : errNumber e < 8 := by
  rcases e with _ | k
  · decide
  · cases k <;> decide

/-- Of the phases only ERROR has the number 5. -/
theorem phaseNumber_eq_five_iff {p : Phase} : phaseNumber p = 5 ↔ p = .error := by cases p <;> decide

/-- The number 0 is NONE, and no error has it. -/
theorem errNumber_ne_zero_iff {e : Option ErrorKind} : errNumber e ≠ 0 ↔ e.isSome = true := by
  rcases e with _ | k
  · decide
  · cases k <;> decide

/-! ## The fields of STATUS -/

/-- STATUS is the sum of its fields: both fit their bits, so the byte loses nothing. -/
theorem State.statusWord_toNat (s : State) :
    s.statusWord.toNat = phaseNumber s.phase + 16 * errNumber s.errCode := by
  have hp := phaseNumber_lt s.phase
  have he := errNumber_lt s.errCode
  rw [State.statusWord, BitVec.toNat_ofNat]
  omega

@[simp] theorem State.statusWord_phaseField (s : State) :
    (s.statusWord.extractLsb' 0 3).toNat = phaseNumber s.phase := by
  have hp := phaseNumber_lt s.phase
  rw [BitVec.extractLsb'_toNat, s.statusWord_toNat, Nat.shiftRight_zero]
  omega

@[simp] theorem State.statusWord_errorField (s : State) :
    (s.statusWord.extractLsb' 4 3).toNat = errNumber s.errCode := by
  have hp := phaseNumber_lt s.phase
  have he := errNumber_lt s.errCode
  rw [BitVec.extractLsb'_toNat, s.statusWord_toNat, Nat.shiftRight_eq_div_pow]
  omega

/-- The reserved bit between the fields: PHASE stays below 8 and ERRCODE counts in sixteens. -/
theorem State.statusWord_bit_three (s : State) : s.statusWord.getLsbD 3 = false := by
  have hp := phaseNumber_lt s.phase
  rw [BitVec.getLsbD, s.statusWord_toNat, Nat.testBit_eq_decide_div_mod_eq, decide_eq_false_iff_not]
  omega

/-- The reserved bit above the fields: their sum stays below 128. -/
theorem State.statusWord_bit_seven (s : State) : s.statusWord.getLsbD 7 = false := by
  have hp := phaseNumber_lt s.phase
  have he := errNumber_lt s.errCode
  rw [BitVec.getLsbD, s.statusWord_toNat]
  exact Nat.testBit_lt_two_pow (by omega)

/-- ERRCODE reads non-zero exactly when PHASE reads ERROR: R24's rule, carried from the invariant to the word. -/
theorem State.Inv.errorField_ne_zero_iff {s : State} (h : s.Inv) :
    (s.statusWord.extractLsb' 4 3).toNat ≠ 0 ↔ (s.statusWord.extractLsb' 0 3).toNat = 5 := by
  rw [s.statusWord_errorField, s.statusWord_phaseField, errNumber_ne_zero_iff, phaseNumber_eq_five_iff]
  exact h.err_iff

/-! ## Busy and ended -/

theorem State.busy_iff {s : State} : s.busy = true ↔ s.phase ∈ [.encRun, .simdBulk, .scalarTail] := by
  unfold State.busy
  cases s.phase <;> decide

theorem State.ended_iff {s : State} : s.ended = true ↔ s.phase ∈ [.done, .error] := by
  unfold State.ended
  cases s.phase <;> decide

/-! ## Host writes that are ignored -/

/-- With an action pending, the machine's step is that action's. -/
theorem step_of_host_cons {s : State} {op : HostOp} {rest : List HostOp} (h : s.host = op :: rest) :
    step s = hostStep exec op s (s.withHost rest) := by
  unfold step machineStep
  rw [h]

/-- The numbers the host can write are CMD's and the four operand registers' (R22). -/
theorem writableWidth_eq_none_iff {aw r : Nat} : writableWidth aw r = none ↔ r ∉ [0, 2, 3, 4, 5] := by
  unfold writableWidth
  split_ifs <;> simp [*]

/-- While the unit is not busy, a number the host cannot write (read-only or no register) ignores the write, whatever the
value (R22). -/
theorem hostWrite_of_not_writable {run : Instr → State → Result} {r : Nat} {s : State}
    (hr : writableWidth s.aw r = none) (hb : s.busy = false) (v : Nat) : hostWrite run r v s = .next s := by
  have hfit : (HostOp.wr r v).wellFormed s.aw = true := by simp [HostOp.wellFormed, hr]
  obtain ⟨h0, h2, h3, h4, h5⟩ : r ≠ 0 ∧ r ≠ 2 ∧ r ≠ 3 ∧ r ≠ 4 ∧ r ≠ 5 := by
    simpa using writableWidth_eq_none_iff.1 hr
  simp [hostWrite, State.storeOperand, hb, hfit, h0, h2, h3, h4, h5]

/-- The step of an ignored write takes the action off the host's list and does nothing else. -/
theorem step_wr_of_not_writable {s : State} {r v : Nat} {rest : List HostOp} (hh : s.host = .wr r v :: rest)
    (hr : writableWidth s.aw r = none) (hb : s.busy = false) : step s = .next (s.withHost rest) := by
  rw [step_of_host_cons hh]
  exact hostWrite_of_not_writable (s := s.withHost rest) hr hb v

/-! ## The obligation -/

/-- Settles O41, from the fields of the word, the invariant's rule for ERRCODE, and the rule for ignored writes. -/
theorem statusLayout : Obligations.StatusLayout := by
  intro s
  exact ⟨s.statusWord_phaseField, s.statusWord_errorField, s.statusWord_bit_three, s.statusWord_bit_seven,
    State.Inv.errorField_ne_zero_iff, State.busy_iff, State.ended_iff,
    fun _ _ hh hb => step_wr_of_not_writable hh rfl hb⟩

end Sys2Proof.Machine
end

section
/-! The layout of an encoded stream (20_memory.md R59 to R61): the fields of a packed control byte, the control stream, and
where each integer's payload starts in the data stream. -/

namespace Sys2Proof.Machine

/-! ## The fields of a packed control byte -/

/-- `ctrl_len` by division (R105): field `i` is digit `i` of the control byte in base 4. -/
theorem ctrlLen_eq_div_mod (c : Byte) (i : Nat) : ctrlLen c i = c.toNat / 2 ^ (2 * i) % 4 + 1 := by
  rw [ctrlLen, BitVec.toNat_and, BitVec.toNat_ushiftRight, Nat.shiftRight_eq_div_pow, BitVec.toNat_ofNat]
  exact congrArg (· + 1) (Nat.and_two_pow_sub_one_eq_mod _ 2)

/-- The four codes of `ctrl_pack` take two bits each, so that or-ing them adds them (R104). -/
theorem ctrlPack_toNat {l0 l1 l2 l3 : Nat} (h0 : l0 ≤ 4) (h1 : l1 ≤ 4) (h2 : l2 ≤ 4) (h3 : l3 ≤ 4) :
    (ctrlPack l0 l1 l2 l3).toNat = (l0 - 1) + 4 * (l1 - 1) + 16 * (l2 - 1) + 64 * (l3 - 1) := by
  have or_eq_add {a k : Nat} (b : Nat) (ha : a < 2 ^ k) : a ||| b <<< k = a + b * 2 ^ k := by
    rw [Nat.or_comm, ← Nat.shiftLeft_add_eq_or_of_lt ha, Nat.shiftLeft_eq, Nat.add_comm]
  rw [ctrlPack, or_eq_add (k := 2) _ (by omega), or_eq_add (k := 4) _ (by omega), or_eq_add (k := 6) _ (by omega),
    BitVec.toNat_ofNat]
  omega

/-- `ctrl_len` reads back what `ctrl_pack` packed, for the lengths 1 to 4 that a field can hold. -/
theorem ctrlLen_ctrlPack {l : Nat → Nat} (hl : ∀ i, 1 ≤ l i ∧ l i ≤ 4) {i : Nat} (hi : i < 4) :
    ctrlLen (ctrlPack (l 0) (l 1) (l 2) (l 3)) i = l i := by
  have h0 := hl 0
  have h1 := hl 1
  have h2 := hl 2
  have h3 := hl 3
  rw [ctrlLen_eq_div_mod, ctrlPack_toNat h0.2 h1.2 h2.2 h3.2]
  interval_cases i <;> omega

/-- A quad's control byte packs the lengths of its integers, an absent one counting 1 (R60). -/
theorem quadControl_eq_ctrlPack (xs : List Word) :
    let l := fun i => (xs.map byteLength).getD i 1
    quadControl xs = ctrlPack (l 0) (l 1) (l 2) (l 3) := by
  have hl (i : Nat) : (match xs[i]? with | some x => byteLength x | none => 1) = (xs.map byteLength).getD i 1 := by
    rw [List.getD_eq_getElem?_getD, List.getElem?_map]
    cases xs[i]? <;> rfl
  simp only [← hl]
  rfl

/-- A length of the list, or the 1 of an absent integer, is a length a field can hold. -/
theorem getD_byteLength_range (xs : List Word) (i : Nat) :
    1 ≤ (xs.map byteLength).getD i 1 ∧ (xs.map byteLength).getD i 1 ≤ 4 := by
  rw [List.getD_eq_getElem?_getD, List.getElem?_map]
  cases xs[i]? with
  | none => decide
  | some x => exact ⟨byteLength_pos x, byteLength_le x⟩

theorem ctrlLen_quadControl (xs : List Word) {i : Nat} (hi : i < 4) :
    ctrlLen (quadControl xs) i = (xs.map byteLength).getD i 1 := by
  rw [quadControl_eq_ctrlPack]
  exact ctrlLen_ctrlPack (getD_byteLength_range xs) hi

/-! ## The control stream and the data stream -/

/-- Byte `k` of the control stream is the control byte of quad `k` (R60). -/
theorem encodeFn_getElem?_control {xs : List Word} {k : Nat} (hk : k < controlStreamLen xs.length) :
    (encodeFn xs)[k]? = some (quadControl ((xs.drop (4 * k)).take 4)) := by
  rw [encodeFn, List.getElem?_append_left (by simpa using hk), List.getElem?_map, List.getElem?_range hk]
  rfl

/-- The data stream follows the control stream (R59). -/
theorem encodeFn_getElem?_data (xs : List Word) (j : Nat) :
    (encodeFn xs)[controlStreamLen xs.length + j]? = (payloads xs)[j]? := by
  rw [encodeFn, List.getElem?_append_right (by simp)]
  simp

/-- Integer `i` of quad `k` is integer `4k + i` of the list. -/
theorem getD_quad_byteLength (xs : List Word) (k : Nat) {i : Nat} (hi : i < 4) :
    (((xs.drop (4 * k)).take 4).map byteLength).getD i 1 = (xs.map byteLength).getD (4 * k + i) 1 := by
  simp only [List.getD_eq_getElem?_getD, List.getElem?_map, List.getElem?_take_of_lt hi, List.getElem?_drop]

theorem payload_getElem? {x : Word} {j : Nat} (hj : j < byteLength x) : (payload x)[j]? = some (x.extractLsb' (8 * j) 8) := by
  rw [payload, List.getElem?_map, List.getElem?_range hj]
  rfl

/-- The payload of integer `i` starts in the data stream after the payloads of the integers before it (R61). -/
theorem payloads_getElem? {xs : List Word} {i : Nat} {x : Word} (hx : xs[i]? = some x) {j : Nat} (hj : j < byteLength x) :
    (payloads xs)[((xs.map byteLength).take i).sum + j]? = some (x.extractLsb' (8 * j) 8) := by
  induction xs generalizing i with
  | nil => simp at hx
  | cons y ys ih =>
    cases i with
    | zero =>
      obtain rfl : y = x := by simpa using hx
      rw [payloads_cons, List.getElem?_append_left (by simpa using hj)]
      simpa using payload_getElem? hj
    | succ i =>
      rw [payloads_cons, List.map_cons, List.take_succ_cons, List.sum_cons, Nat.add_assoc, ← payload_length y,
        List.getElem?_append_right (Nat.le_add_right _ _), Nat.add_sub_cancel_left]
      exact ih (by simpa using hx)

/-- Settles O20: the length, the control stream by its fields, and the data stream by an induction over the integers. -/
theorem encodedStreamLayout : Obligations.EncodedStreamLayout := by
  intro xs
  refine ⟨encodeFn_length xs, fun k hk => ⟨_, encodeFn_getElem?_control hk, fun i hi => ?_⟩, fun i x hx j hj => ?_⟩
  · rw [ctrlLen_quadControl _ hi, getD_quad_byteLength xs k hi]
  · rw [Nat.add_assoc, encodeFn_getElem?_data]
    exact payloads_getElem? hx hj

end Sys2Proof.Machine
end

section
/-! No access of the engine leaves its buffer (20_memory.md R67): what each operation's fault says about the cursors, and that
the invariant's cursors never stand there. -/

namespace Sys2Proof.Machine

/-! ## What a fault of each operation means -/

theorem encodeQuad_fault {s : State} {f : Fault} (h : encodeQuad s = .fault f) :
    s.INT_LEN < s.oc + quadSize s.rem ∨ s.ENC_LEN < s.cc + 1 ∨
      s.ENC_LEN < s.dc + (payloads (s.intWords s.oc (quadSize s.rem))).length := by
  unfold encodeQuad at h
  simp only at h
  split at h
  · rename_i hi
    exact .inl (not_le.1 hi)
  · split at h
    · rename_i he
      exact .inr (he.imp not_le.1 not_le.1)
    · cases h

/-- A scalar quad step answers a payload outside ENC with TRUNCATED, so only its write to INT can fault. -/
theorem scalarQuad_fault {c : Byte} {s : State} {f : Fault} (h : scalarQuad c s = .fault f) :
    s.INT_LEN < s.oc + quadSize s.rem := by
  unfold scalarQuad at h
  simp only at h
  split at h
  · cases h
  · split at h
    · rename_i hi
      exact not_le.1 hi
    · cases h

theorem simdQuad_fault {c : Byte} {s : State} {f : Fault} (h : simdQuad c s = .fault f) :
    s.ENC_LEN < s.dc + 16 ∨ s.INT_LEN < s.oc + 4 := by
  unfold simdQuad at h
  simp only at h
  split at h
  · rename_i he
    exact .inl (not_le.1 he)
  · split at h
    · rename_i hi
      exact .inr (not_le.1 hi)
    · cases h

/-- The guard (R141): four integers left, the window inside ENC. -/
theorem guardHolds_iff {s : State} : guardHolds s = true ↔ 4 ≤ s.rem ∧ s.dc + 16 ≤ s.ENC_LEN := by
  simp [guardHolds]

/-- A quad step is due in a decode phase only, and only with integers left (45_driver.md R162). -/
theorem quadDue_cases {s : State} (h : quadDue s = true) :
    (s.phase = .simdBulk ∧ guardHolds s = true) ∨ (s.phase = .scalarTail ∧ 0 < s.rem) := by
  unfold quadDue at h
  split at h
  case h_1 hp => exact .inl ⟨hp, h⟩
  case h_2 hp => exact .inr ⟨hp, by simpa using h⟩
  all_goals cases h

theorem busy_of_quadDue {s : State} (h : quadDue s = true) : s.busy = true := by
  rw [State.busy_iff]
  rcases quadDue_cases h with ⟨hp, -⟩ | ⟨hp, -⟩ <;> simp [hp]

/-- A control byte faults only where its integers do not fit INT: the guard keeps the window inside ENC. -/
theorem execQuad_fault {b0 b1 b2 b3 : BitVec 2} {s : State} {f : Fault} (h : execQuad b0 b1 b2 b3 s = .fault f) :
    quadDue s = true ∧ s.INT_LEN < s.oc + quadSize s.rem := by
  unfold execQuad at h
  split at h
  · rename_i hd
    refine ⟨hd, ?_⟩
    rcases quadDue_cases hd with ⟨hp, hg⟩ | ⟨hp, -⟩
    · rw [if_pos hp] at h
      obtain ⟨hr, hw⟩ := guardHolds_iff.1 hg
      have hsize : quadSize s.rem = 4 := Nat.min_eq_left hr
      have := simdQuad_fault h
      omega
    · rw [if_neg (by simp [hp])] at h
      exact scalarQuad_fault h
  · cases h

theorem decodeStart_ne_fault {st : Strategy} {ph : Phase} {s : State} {f : Fault} : decodeStart st ph s ≠ .fault f := by
  intro h
  have hgo := whenStartable_fault h
  split at hgo
  · cases hgo
  · have hgo := whenWritten_fault hgo
    split at hgo <;> cases hgo

/-- Of all instructions only a control byte that is due can fault: a command's first step has no access to a buffer. -/
theorem exec_fault {i : Instr} {s : State} {f : Fault} (h : exec i s = .fault f) :
    quadDue s = true ∧ s.INT_LEN < s.oc + quadSize s.rem := by
  cases i with
  | blen => cases whenStartable_fault h
  | clen => cases whenStartable_fault h
  | mlen =>
    have hgo := whenStartable_fault h
    split at hgo <;> cases hgo
  | enc =>
    have hgo := whenStartable_fault h
    split at hgo <;> cases hgo
  | decS => exact absurd h decodeStart_ne_fault
  | decV => exact absurd h decodeStart_ne_fault
  | quad b0 b1 b2 b3 => exact execQuad_fault h

theorem fetchQuad_fault {s : State} {f : Fault} (h : fetchQuad exec s = .fault f) :
    s.ENC_LEN < s.cc + 1 ∨ s.INT_LEN < s.oc + quadSize s.rem := by
  unfold fetchQuad at h
  split at h
  · rename_i hc
    exact .inl (not_le.1 hc)
  · exact .inr (exec_fault h).2

/-- Everything a fault of the engine's step can mean: with integers left, a control byte outside ENC, a quad's integers
outside INT or, while encoding, its payloads outside ENC. -/
theorem engineStep_fault {s : State} {f : Fault} (h : engineStep exec s = .fault f) :
    s.busy = true ∧ 0 < s.rem ∧
    (s.ENC_LEN < s.cc + 1 ∨ s.INT_LEN < s.oc + quadSize s.rem ∨
      (s.phase = .encRun ∧ s.ENC_LEN < s.dc + (payloads (s.intWords s.oc (quadSize s.rem))).length)) := by
  unfold engineStep at h
  split at h
  case h_1 hp =>
    unfold encodeStep at h
    split at h
    · cases h
    · have := encodeQuad_fault h
      exact ⟨by simp [State.busy, hp], by omega, by tauto⟩
  case h_2 hp =>
    unfold bulkStep at h
    split at h
    · rename_i hg
      have hr := (guardHolds_iff.1 hg).1
      have := fetchQuad_fault h
      exact ⟨by simp [State.busy, hp], by omega, by tauto⟩
    · cases h
  case h_3 hp =>
    unfold tailStep at h
    split at h
    · cases h
    · have := fetchQuad_fault h
      exact ⟨by simp [State.busy, hp], by omega, by tauto⟩
  all_goals cases h

theorem startCommand_ne_fault {v : Byte} {s : State} {f : Fault} (hb : s.busy = false) :
    startCommand exec v s ≠ .fault f := by
  intro h
  unfold startCommand at h
  split at h
  · have hbusy : s.busy = true := busy_of_quadDue (s := s.withCMD v) (exec_fault h).1
    simp [hb] at hbusy
  · cases h

theorem hostWrite_ne_fault {r v : Nat} {s : State} {f : Fault} : hostWrite exec r v s ≠ .fault f := by
  intro h
  unfold hostWrite at h
  split_ifs at h with _ hb
  exact startCommand_ne_fault (by simpa using hb) h

theorem bufferAccess_ne_fault {op : HostOp} {s t : State} {f : Fault} : bufferAccess op s t ≠ .fault f := by
  unfold bufferAccess
  split_ifs <;> exact nofun

/-- With no action pending, the machine's step is the engine's. -/
theorem step_of_host_nil {s : State} (h : s.host = []) : step s = engineStep exec s := by
  unfold step machineStep
  rw [h]

/-- A host waiting for a command that has not ended leaves the step to the engine and keeps waiting. -/
theorem hostStep_wait (run : Instr → State → Result) (waiting s : State) :
    hostStep run .wait waiting s = if s.ended then .next s else engineStep run waiting := rfl

/-- No action of the host faults by itself: a fault is the engine's, in the step it makes on its own, under WAIT or under
`pass`. -/
theorem step_fault {s : State} {f : Fault} (h : step s = .fault f) :
    ∃ rest, engineStep exec (s.withHost rest) = .fault f := by
  cases hh : s.host with
  | nil => exact ⟨s.host, step_of_host_nil hh ▸ h⟩
  | cons op rest =>
    rw [step_of_host_cons hh] at h
    cases op with
    | wr r v => exact absurd h hostWrite_ne_fault
    | wait =>
      rw [hostStep_wait] at h
      split at h
      · cases h
      · exact ⟨s.host, h⟩
    | pass => exact ⟨rest, h⟩
    | fillEnc a bytes => exact absurd h bufferAccess_ne_fault
    | fillInt i xs => exact absurd h bufferAccess_ne_fault
    | dumpEnc a k => exact absurd h bufferAccess_ne_fault
    | dumpInt i k => exact absurd h bufferAccess_ne_fault
    | rd r => cases h
    | reset => cases h

/-! ## Where the invariant's cursors stand -/

/-- The invariant says nothing about the host's list. -/
theorem State.Inv.withHost {s : State} (h : s.Inv) (rest : List HostOp) : (s.withHost rest).Inv where
  widths := { h.widths with }
  encMem := h.encMem
  intMem := h.intMem
  err_iff := h.err_iff
  cursors := fun hb => { h.cursors hb with }
  encoding := fun hp => { h.encoding hp with }
  decoding := fun hp => { h.decoding hp with }
  bulk := h.bulk

/-- A quad's integers are among the `n` of the command. -/
theorem State.CursorsOk.oc_add_quadSize_le {s : State} (h : s.CursorsOk) : s.oc + quadSize s.rem ≤ s.n := by
  have hr := quadSize_le_rem s.rem
  obtain ⟨hoc, hrem, -, -, -⟩ := h
  omega

/-- With integers left the control byte to come lies in the control stream, before `dc`. -/
theorem State.CursorsOk.cc_lt_dc {s : State} (h : s.CursorsOk) (hr : 0 < s.rem) : s.cc < s.dc := by
  obtain ⟨hoc, hrem, -, hdata, -⟩ := h
  unfold controlStreamLen at hdata
  omega

theorem State.encodedBytes_le (s : State) (k : Nat) : s.encodedBytes k ≤ 4 * k := by
  have h := List.sum_le_card_nsmul ((List.range k).map fun i => byteLength (s.intWord i)) 4 (by
    simpa using fun i _ => byteLength_le (s.intWord i))
  simpa [State.encodedBytes, Nat.mul_comm] using h

/-- While encoding, the payloads of the quad to come fit: the start check counted four bytes for each of the `n` integers. -/
theorem State.EncodingOk.payloads_fit {s : State} (h : s.EncodingOk) (hc : s.CursorsOk) :
    s.dc + (payloads (s.intWords s.oc (quadSize s.rem))).length ≤ s.ENC_LEN := by
  have hlen := payloads_length_le (s.intWords s.oc (quadSize s.rem))
  have hdone := s.encodedBytes_le s.oc
  have hquad := hc.oc_add_quadSize_le
  have hfits := h.fits
  have hdc := h.dc_eq
  rw [State.intWords_length] at hlen
  unfold maxEncodedLen at hfits
  omega

/-- Both starts have checked that INT holds the `n` integers of the command. -/
theorem State.Inv.n_le_INT_LEN {s : State} (h : s.Inv) (hb : s.busy = true) : s.n ≤ s.INT_LEN := by
  rcases (by simpa using State.busy_iff.1 hb) with hp | hp
  · exact (h.encoding hp).count.le
  · exact (h.decoding hp).fits

theorem State.Inv.engineStep_ne_fault {s : State} (h : s.Inv) (f : Fault) : engineStep exec s ≠ .fault f := by
  intro hf
  obtain ⟨hb, hr, hout⟩ := engineStep_fault hf
  have hc := h.cursors hb
  rcases hout with henc | hint | ⟨hp, hpay⟩
  · have := hc.cc_lt_dc hr
    have := hc.dc_le
    omega
  · have := hc.oc_add_quadSize_le
    have := h.n_le_INT_LEN hb
    omega
  · have := (h.encoding hp).payloads_fit hc
    omega

/-- Settles O54: a fault is the engine's, and the invariant keeps each of the accesses that could raise one inside. -/
theorem noAccessLeavesItsBuffer : Obligations.NoAccessLeavesItsBuffer := by
  intro s f hs h
  obtain ⟨rest, hf⟩ := step_fault h
  exact (hs.withHost rest).engineStep_ne_fault f hf

end Sys2Proof.Machine
end

section
/-! The encodings of 30_encoding.md: the opcode map (R82, R83), the fields of a control byte (R84, R85), and payloads as
little-endian numbers (R89). -/

namespace Sys2Proof.Machine

/-! ## Command words -/

/-- A word that no row of the opcode map lists is illegal, by its value (R83). -/
theorem decodeCmd_of_not_mem {v : Byte} (hv : v ∉ commandRows.map Prod.fst) :
    decodeCmd v = .error (.illegalOpcode v) := by
  have hnone : commandRows.find? (fun row => row.1 == v) = none := by
    rw [List.find?_eq_none]
    intro row hrow heq
    exact hv (List.mem_map.2 ⟨row, hrow, beq_iff_eq.1 heq⟩)
  rw [decodeCmd, hnone]

/-- Settles O1: the six rows by evaluation, every other word by the search that finds no row. -/
theorem commandWordsDecodeAsListed : Obligations.CommandWordsDecodeAsListed :=
  ⟨rfl, rfl, rfl, rfl, rfl, rfl, fun _ hv => decodeCmd_of_not_mem hv⟩

/-! ## The fields of a control byte -/

/-- Field `i` of a control byte is digit `i` of the byte in base 4 (R84). -/
theorem ctrlField_toNat (c : Byte) (i : Nat) : (c.extractLsb' (2 * i) 2).toNat = c.toNat / 2 ^ (2 * i) % 4 := by
  rw [BitVec.extractLsb'_toNat, Nat.shiftRight_eq_div_pow]

/-- A field holds its integer's length less 1 (R85). -/
theorem ctrlLen_eq_ctrlField (c : Byte) (i : Nat) : ctrlLen c i = (c.extractLsb' (2 * i) 2).toNat + 1 := by
  rw [ctrlLen_eq_div_mod, ctrlField_toNat]

/-- A control byte is the number whose base-4 digits are its four fields, low field first (R84). -/
theorem toNat_eq_sum_of_ctrlFields (c : Byte) :
    c.toNat = (c.extractLsb' (2 * 0) 2).toNat + 4 * (c.extractLsb' (2 * 1) 2).toNat +
      16 * (c.extractLsb' (2 * 2) 2).toNat + 64 * (c.extractLsb' (2 * 3) 2).toNat := by
  simp only [ctrlField_toNat]
  omega

/-- Settles O3: the decoder cuts the byte into its base-4 digits, which sum back to it and which `ctrl_len` counts from 1. -/
theorem controlByteIsItsFields : Obligations.ControlByteIsItsFields := by
  intro c b0 b1 b2 b3 h
  obtain ⟨rfl, rfl, rfl, rfl⟩ := Instr.quad.inj h
  exact ⟨toNat_eq_sum_of_ctrlFields c, ctrlLen_eq_ctrlField c 0, ctrlLen_eq_ctrlField c 1, ctrlLen_eq_ctrlField c 2,
    ctrlLen_eq_ctrlField c 3⟩

/-! ## Payloads -/

/-- The little-endian number of `k` bytes: byte `j` counts `256^j` (R89). -/
theorem loadLE_eq_sum (f : Nat → Byte) (a k : Nat) :
    loadLE f a k = ((List.range k).map fun j => 256 ^ j * (f (a + j)).toNat).sum := by
  induction k generalizing a with
  | zero => rfl
  | succ k ih =>
    have hshift (j : Nat) : 256 ^ (j + 1) * (f (a + (j + 1))).toNat = 256 * (256 ^ j * (f (a + 1 + j)).toNat) := by
      rw [Nat.pow_succ', Nat.mul_assoc, Nat.add_assoc, Nat.add_comm 1 j]
    rw [loadLE, ih, List.range_succ_eq_map, List.map_cons, List.sum_cons, List.map_map, ← List.sum_map_mul_left]
    simp [Function.comp_def, hshift]

/-- Up to four bytes fit an integer, so that assembling them loses nothing (R89). -/
theorem assemble_toNat (f : Nat → Byte) (d : Nat) {l : Nat} (hl : l ≤ 4) : (assemble f d l).toNat = loadLE f d l := by
  have hfit : 256 ^ l ≤ 2 ^ 32 := Nat.pow_le_pow_right (by decide) hl
  rw [assemble, BitVec.toNat_ofNat, Nat.mod_eq_of_lt ((loadLE_lt f d l).trans_le hfit)]

/-- Byte `j` of a payload is digit `j` of the integer in base 256 (R89). -/
theorem payload_getElem_toNat (x : Word) {j : Nat} (hj : j < (payload x).length) :
    ((payload x)[j]).toNat = x.toNat / 256 ^ j % 256 := by
  have hbyte : (payload x)[j] = x.extractLsb' (8 * j) 8 := by simp [payload]
  rw [hbyte, BitVec.extractLsb'_toNat, Nat.shiftRight_eq_div_pow, Nat.pow_mul]

/-- Settles O9: reading by induction over the bytes, writing byte by byte. -/
theorem payloadIsLittleEndian : Obligations.PayloadIsLittleEndian :=
  ⟨fun f d l _ hl => (assemble_toNat f d hl).trans (loadLE_eq_sum f d l),
    fun x => ⟨payload_length x, fun _ hj => payload_getElem_toNat x hj⟩⟩

end Sys2Proof.Machine
end

section
/-! The format primitives of 40_format_primitives.md: the length of the control stream (R102), the lengths a control byte
packs (R105), and the three primitive commands on a unit that can start them (R107 to R109). -/

namespace Sys2Proof.Machine

/-! ## The length of the control stream -/

/-- `control_stream_len` and multiplication by 4 are adjoint, which makes it the ceiling of R102. -/
theorem controlStreamLen_le_iff {n k : Nat} : controlStreamLen n ≤ k ↔ n ≤ 4 * k := by
  unfold controlStreamLen
  omega

/-- Settles O6: both halves are the adjunction, the first one read at `control_stream_len(n)` itself. -/
theorem controlStreamLenIsCeiling : Obligations.ControlStreamLenIsCeiling :=
  fun _ => ⟨controlStreamLen_le_iff.1 le_rfl, fun _ => controlStreamLen_le_iff.2⟩

/-! ## The lengths a control byte packs -/

/-- Four lengths given one by one, as the sequence of lengths that `ctrlLen_ctrlPack` speaks of. -/
theorem getD_four_lengths_range {l0 l1 l2 l3 : Nat} (h0 : 1 ≤ l0 ∧ l0 ≤ 4) (h1 : 1 ≤ l1 ∧ l1 ≤ 4)
    (h2 : 1 ≤ l2 ∧ l2 ≤ 4) (h3 : 1 ≤ l3 ∧ l3 ≤ 4) :
    ∀ i, 1 ≤ [l0, l1, l2, l3].getD i 1 ∧ [l0, l1, l2, l3].getD i 1 ≤ 4
  | 0 => h0
  | 1 => h1
  | 2 => h2
  | 3 => h3
  | _ + 4 => by simp

/-- Settles O7: a field is a base-4 digit of the byte, and reading fields back inverts packing them. -/
theorem lengthCodesUnpack : Obligations.LengthCodesUnpack := by
  refine ⟨fun c i _ => ?_, fun l0 l1 l2 l3 p0 q0 p1 q1 p2 q2 p3 q3 => ?_⟩
  · rw [ctrlLen_eq_div_mod, Nat.pow_mul]
  · have unpack {i : Nat} (hi : i < 4) : ctrlLen (ctrlPack l0 l1 l2 l3) i = [l0, l1, l2, l3].getD i 1 :=
      ctrlLen_ctrlPack (getD_four_lengths_range ⟨p0, q0⟩ ⟨p1, q1⟩ ⟨p2, q2⟩ ⟨p3, q3⟩) hi
    exact ⟨unpack (i := 0) (by decide), unpack (i := 1) (by decide), unpack (i := 2) (by decide),
      unpack (i := 3) (by decide)⟩

/-! ## The primitive commands on a unit that can start them -/

theorem exec_blen_of_ready {s : State} (hb : s.busy = false) (hx : s.xWritten = true) :
    exec .blen s = .next (primitiveDone (byteLength s.X) s) :=
  whenStartable_ready hb hx _

theorem exec_clen_of_ready {s : State} (hb : s.busy = false) (hn : s.nWritten = true) :
    exec .clen s = .next (primitiveDone (controlStreamLen s.N) s) :=
  whenStartable_ready hb hn _

/-- `MLEN` where the value fits RESULT (R109). -/
theorem exec_mlen_of_fits {s : State} (hb : s.busy = false) (hn : s.nWritten = true)
    (hfit : maxEncodedLen s.N < 2 ^ s.aw) : exec .mlen s = .next (primitiveDone (maxEncodedLen s.N) s) :=
  (whenStartable_ready hb hn _).trans (if_neg hfit.not_ge)

/-- `MLEN` where the value does not fit RESULT (R109, R183). -/
theorem exec_mlen_of_too_large {s : State} (hb : s.busy = false) (hn : s.nWritten = true)
    (hlarge : 2 ^ s.aw ≤ maxEncodedLen s.N) : exec .mlen s = .next (raise .contract (maxCount s.aw) 0 s) :=
  (whenStartable_ready hb hn _).trans (if_pos hlarge)

/-- Settles O14: the end of a primitive command is the record update of the statement. -/
theorem blenGivesByteLength : Obligations.BlenGivesByteLength :=
  fun _ => exec_blen_of_ready

/-- Settles O15: the end of a primitive command is the record update of the statement. -/
theorem clenGivesControlLength : Obligations.ClenGivesControlLength :=
  fun _ => exec_clen_of_ready

/-- Settles O16: the two outcomes of `MLEN`; CONTRACT's expected value is the largest count, which saturates nowhere. -/
theorem mlenGivesMaximumOrContract : Obligations.MlenGivesMaximumOrContract := by
  intro s hb hn
  refine ⟨exec_mlen_of_fits hb hn, fun hlarge => ?_⟩
  rw [exec_mlen_of_too_large hb hn hlarge, raise_of_ne (by decide), min_self]
  rfl

end Sys2Proof.Machine
end

section
/-! The generator of the tables MTAB and PTAB (41_shuffle_table.md R112, R113), entry by entry, after the bytes of a
little-endian number and of a vector built from its bytes. -/

namespace Sys2Proof.Machine

/-! ## The bytes of a vector built from its bytes -/

/-- The bytes a little-endian number is made of are its base-256 digits (R11). -/
theorem loadLE_div_mod (f : Nat → Byte) (a : Nat) {j k : Nat} (hj : j < k) :
    loadLE f a k / 256 ^ j % 256 = (f (a + j)).toNat := by
  induction k generalizing a j with
  | zero => omega
  | succ k ih =>
    have hbyte : (f a).toNat < 256 := (f a).isLt
    cases j with
    | zero => rw [loadLE, Nat.pow_zero, Nat.div_one, Nat.add_zero a]; omega
    | succ j =>
      have hrest : ((f a).toNat + 256 * loadLE f (a + 1) k) / 256 = loadLE f (a + 1) k := by omega
      rw [loadLE, Nat.pow_succ', ← Nat.div_div_eq_div_mul, hrest, ih (a + 1) (Nat.lt_of_succ_lt_succ hj)]
      congr 2
      omega

/-- A vector of 16 bytes holds all of its little-endian number. -/
theorem vector_loadLE_toNat (f : Nat → Byte) (a : Nat) : (BitVec.ofNat 128 (loadLE f a 16)).toNat = loadLE f a 16 := by
  have hfit : loadLE f a 16 < 2 ^ 128 := loadLE_lt f a 16
  rw [BitVec.toNat_ofNat, Nat.mod_eq_of_lt hfit]

/-- Byte `k` of a vector loaded from 16 bytes is the byte `k` places after the first one (R9, R11). -/
theorem vecByte_loadLE (f : Nat → Byte) (a : Nat) {k : Nat} (hk : k < 16) :
    vecByte (BitVec.ofNat 128 (loadLE f a 16)) k = f (a + k) := by
  apply BitVec.eq_of_toNat_eq
  rw [vecByte, BitVec.extractLsb'_toNat, vector_loadLE_toNat, Nat.shiftRight_eq_div_pow, Nat.pow_mul]
  exact loadLE_div_mod f a hk

/-- The vector given byte by byte has the bytes given (R9). -/
theorem vecByte_vecOf (f : Nat → Byte) {k : Nat} (hk : k < 16) : vecByte (vecOf f) k = f k := by
  rw [vecOf, vecByte_loadLE f 0 hk, Nat.zero_add]

/-! ## The generator -/

/-- `ctrl_len` by the base-4 digits of the control byte (R85, R105). -/
theorem ctrlLen_eq_digit (c : Byte) (i : Nat) : ctrlLen c i = c.toNat / 4 ^ i % 4 + 1 := by
  rw [ctrlLen_eq_div_mod, Nat.pow_mul]

/-- `quad_len` sums the lengths of the first `r` fields (R106). -/
theorem quadLen_eq_sum (c : Byte) (r : Nat) : quadLen c r = ((List.range r).map (ctrlLen c)).sum := by
  induction r with
  | zero => rfl
  | succ r ih => rw [quadLen, ih, List.sum_range_succ]

/-- Byte `4*i + j` of `MTAB[c]` (R112): the source of byte `j` of integer `i`, or the zero sentinel past its length. -/
theorem vecByte_mtab (c : Byte) {i j : Nat} (hi : i < 4) (hj : j < 4) :
    vecByte (mtab c) (4 * i + j) = if j < ctrlLen c i then BitVec.ofNat 8 (quadLen c i + j) else zeroSentinel := by
  have hrow : (4 * i + j) / 4 = i := by omega
  have hcol : (4 * i + j) % 4 = j := by omega
  rw [mtab, vecByte_vecOf _ (by omega), mtabByte, hrow, hcol]

/-- `PTAB[c]` by the base-4 digits of the control byte (R113). -/
theorem ptab_eq_digits (c : Byte) :
    ptab c = 4 + c.toNat % 4 + c.toNat / 4 % 4 + c.toNat / 16 % 4 + c.toNat / 64 % 4 := by
  simp only [ptab, ctrlLen_eq_digit]
  omega

/-- Settles O10: an entry is a byte of the vector the generator builds, its lengths and their sums the digits of `c`. -/
theorem tableIsGenerated : Obligations.TableIsGenerated := by
  refine fun c => ⟨fun i j hi hj => ?_, ptab_eq_digits c⟩
  have hlens : ctrlLen c = fun m => c.toNat / 4 ^ m % 4 + 1 := funext (ctrlLen_eq_digit c)
  rw [vecByte_mtab c hi hj, quadLen_eq_sum, hlens]
  rfl

end Sys2Proof.Machine
end

section
/-! The start step and the quad step of `ENC` (42_scalar_encoder.md R121, R123): the two outcomes of the start, and the state
after a quad with what each byte of ENC holds in it. -/

namespace Sys2Proof.Machine

/-! ## The start step -/

theorem exec_enc_of_capacity {s : State} (hb : s.busy = false) (hw : s.encodeOperandsWritten = true)
    (hcap : maxEncodedLen s.INT_LEN ≤ s.ENC_LEN) : exec .enc s = .next (s.latch s.INT_LEN s.strat .encRun) :=
  (whenStartable_ready hb hw _).trans (if_neg hcap.not_gt)

theorem exec_enc_of_no_capacity {s : State} (hb : s.busy = false) (hw : s.encodeOperandsWritten = true)
    (hcap : s.ENC_LEN < maxEncodedLen s.INT_LEN) :
    exec .enc s = .next (raise .capacity (maxEncodedLen s.INT_LEN) s.ENC_LEN s) :=
  (whenStartable_ready hb hw _).trans (if_pos hcap)

/-- Settles O17: the cursors' set-up and the entry of CAPACITY are the record updates of the statement. -/
theorem encodeStartStep : Obligations.EncodeStartStep := by
  intro s hb henc hint
  have hw : s.encodeOperandsWritten = true := by rw [State.encodeOperandsWritten, henc, hint, Bool.and_self]
  refine ⟨exec_enc_of_capacity hb hw, fun hcap => ?_⟩
  rw [exec_enc_of_no_capacity hb hw hcap, raise_of_ne (by decide)]
  rfl

/-! ## Bytes of ENC after a write -/

theorem State.intWords_getElem? (s : State) (i : Nat) {j k : Nat} (hj : j < k) :
    (s.intWords i k)[j]? = some (s.intWord (i + j)) := by
  rw [State.intWords, List.getElem?_map, List.getElem?_range hj]
  rfl

/-- Where a list of bytes has an entry, ENC holds it after the list is written. -/
theorem State.encByte_writeList_inside {s t : State} {a : Nat} {vs : List Byte} (h : t.ENC = Memory.writeList s.ENC a vs)
    {j : Nat} {v : Byte} (hv : vs[j]? = some v) : t.encByte (a + j) = v := by
  obtain ⟨hj, -⟩ := List.getElem?_eq_some_iff.1 hv
  rw [State.encByte_writeList h, if_pos (by omega), Nat.add_sub_cancel_left, hv, Option.getD_some]

theorem State.encByte_writeList_outside {s t : State} {a : Nat} {vs : List Byte} (h : t.ENC = Memory.writeList s.ENC a vs)
    {b : Nat} (hb : b < a ∨ a + vs.length ≤ b) : t.encByte b = s.encByte b := by
  rw [State.encByte_writeList h, if_neg (by omega)]

/-! ## The quad step -/

/-- `s` with the first write of `ENC`'s quad step made, that of the control byte of the integers `xs`. -/
def State.afterControlByte (xs : List Word) (s : State) : State :=
  s.withENC (Memory.writeList s.ENC s.cc [quadControl xs])

/-- The state after the quad step of `ENC` over the integers `xs`: after the control byte the payloads are written. -/
def State.afterEncodeQuad (xs : List Word) (s : State) : State :=
  (s.advance (quadControl xs) (payloads xs).length xs.length).withENC
    (Memory.writeList (s.afterControlByte xs).ENC s.dc (payloads xs))

/-- The quad step where its three accesses stay inside their buffers. -/
theorem encodeQuad_of_fits {s : State} (hint : s.intHas s.oc (quadSize s.rem)) (hctrl : s.encHas s.cc 1)
    (hdata : s.encHas s.dc (payloads (s.intWords s.oc (quadSize s.rem))).length) :
    encodeQuad s = .next (s.afterEncodeQuad (s.intWords s.oc (quadSize s.rem))) := by
  simp only [encodeQuad, not_not.2 hint, not_not.2 hctrl, not_not.2 hdata, or_self, if_false, State.afterEncodeQuad,
    State.afterControlByte, State.withENC_ENC, State.intWords_length]

/-- While encoding with integers left, the engine's step is the quad step (R122). -/
theorem engineStep_of_encRun {run : Instr → State → Result} {s : State} (hp : s.phase = .encRun) (hr : 0 < s.rem) :
    engineStep run s = encodeQuad s := by
  unfold engineStep encodeStep
  rw [hp]
  exact if_neg hr.ne'

theorem State.afterEncodeQuad_ENC (xs : List Word) (s : State) :
    (s.afterEncodeQuad xs).ENC = Memory.writeList (s.afterControlByte xs).ENC s.dc (payloads xs) := rfl

/-- The control byte stands at `cc`: the payloads, written after it, start above. -/
theorem State.afterEncodeQuad_encByte_control (xs : List Word) {s : State} (h : s.cc < s.dc) :
    (s.afterEncodeQuad xs).encByte s.cc = quadControl xs := by
  rw [State.encByte_writeList_outside (s.afterEncodeQuad_ENC xs) (.inl h)]
  exact State.encByte_writeList_inside (s := s) (a := s.cc) (j := 0) rfl rfl

/-- Byte `j` of integer `i`'s payload follows the payloads before it. -/
theorem State.afterEncodeQuad_encByte_payload {xs : List Word} (s : State) {i : Nat} {x : Word} (hx : xs[i]? = some x)
    {j : Nat} (hj : j < byteLength x) :
    (s.afterEncodeQuad xs).encByte (s.dc + (((xs.map byteLength).take i).sum + j)) = x.extractLsb' (8 * j) 8 :=
  State.encByte_writeList_inside (s.afterEncodeQuad_ENC xs) (payloads_getElem? hx hj)

/-- Every byte but the control byte and the payloads is as it was. -/
theorem State.afterEncodeQuad_encByte_outside (xs : List Word) {s : State} {a : Nat} (hc : a ≠ s.cc)
    (hd : a < s.dc ∨ s.dc + (payloads xs).length ≤ a) : (s.afterEncodeQuad xs).encByte a = s.encByte a := by
  rw [State.encByte_writeList_outside (s.afterEncodeQuad_ENC xs) hd]
  exact State.encByte_writeList_outside (a := s.cc) rfl (by rw [List.length_singleton]; omega)

/-- Settles O18: the quad step answers `afterEncodeQuad`, whose bytes of ENC are the control byte, the payloads and, elsewhere,
those of before. -/
theorem encodeQuadStep : Obligations.EncodeQuadStep := by
  intro s hh hp hr hcc r lens hint hdata
  have hlen : (payloads (s.intWords s.oc r)).length = lens.sum := payloads_length _
  have hstep : step s = .next (s.afterEncodeQuad (s.intWords s.oc r)) := by
    rw [step_of_host_nil hh, engineStep_of_encRun hp hr]
    exact encodeQuad_of_fits hint (by omega) (hlen.symm ▸ hdata)
  refine ⟨_, hstep, ?_, quadControl_eq_ctrlPack _, State.afterEncodeQuad_encByte_control _ hcc, fun i hi j hj => ?_,
    fun a hc hd => State.afterEncodeQuad_encByte_outside _ hc (hlen ▸ hd)⟩
  · rw [← hlen]
    simp only [State.afterEncodeQuad, State.intWords_length]
    rfl
  · rw [Nat.add_assoc]
    exact s.afterEncodeQuad_encByte_payload (s.intWords_getElem? s.oc hi) hj

end Sys2Proof.Machine
end

section
/-! The scalar quad step of `DEC.S` and `DEC.V` (43_scalar_decoder.md R133, R134): the control byte the engine runs, and the two
outcomes of a quad with what each integer of INT holds after it. -/

namespace Sys2Proof.Machine

/-! ## The control byte the engine runs -/

/-- Four fields of two bits fill the control byte, so that their sum loses nothing (R84). -/
theorem ctrlByte_toNat (b0 b1 b2 b3 : BitVec 2) :
    (ctrlByte b0 b1 b2 b3).toNat = b0.toNat + 4 * b1.toNat + 16 * b2.toNat + 64 * b3.toNat := by
  rw [ctrlByte, BitVec.toNat_ofNat, Nat.mod_eq_of_lt (by omega)]

/-- The decoder reads back the fields a control byte was made of (R84). -/
theorem decodeCtrl_ctrlByte (b0 b1 b2 b3 : BitVec 2) : decodeCtrl (ctrlByte b0 b1 b2 b3) = .quad b0 b1 b2 b3 := by
  have field {i : Nat} {b : BitVec 2} (h : (ctrlByte b0 b1 b2 b3).toNat / 2 ^ (2 * i) % 4 = b.toNat) :
      (ctrlByte b0 b1 b2 b3).extractLsb' (2 * i) 2 = b :=
    BitVec.eq_of_toNat_eq ((ctrlField_toNat _ i).trans h)
  have hsum := ctrlByte_toNat b0 b1 b2 b3
  rw [decodeCtrl, Instr.quad.injEq]
  exact ⟨field (i := 0) (by omega), field (i := 1) (by omega), field (i := 2) (by omega),
    field (i := 3) (by omega)⟩

/-- In SCALAR_TAIL with integers left, the engine runs the control byte at `cc` (R65, R132). -/
theorem engineStep_of_scalarTail {run : Instr → State → Result} {s : State} (hp : s.phase = .scalarTail) (hr : 0 < s.rem)
    (hc : s.encHas s.cc 1) : engineStep run s = run (decodeCtrl (s.encByte s.cc)) s := by
  unfold engineStep tailStep fetchQuad
  rw [hp]
  exact (if_neg hr.ne').trans (if_neg (not_not.2 hc))

/-- In SCALAR_TAIL with integers left, a control byte is the scalar quad step (R132). -/
theorem exec_quad_of_scalarTail {s : State} (hp : s.phase = .scalarTail) (hr : 0 < s.rem) (b0 b1 b2 b3 : BitVec 2) :
    exec (.quad b0 b1 b2 b3) s = scalarQuad (ctrlByte b0 b1 b2 b3) s := by
  have hdue : quadDue s = true := by simp [quadDue, hp, hr]
  exact (if_pos hdue).trans (if_neg (by simp [hp]))

/-! ## Integers of INT after a write -/

/-- Where a list of integers has an entry, INT holds it after the list is written. -/
theorem State.intWord_writeList_inside {s t : State} {i : Nat} {xs : List Word} (h : t.INT = Memory.writeList s.INT i xs)
    {j : Nat} {x : Word} (hx : xs[j]? = some x) : t.intWord (i + j) = x := by
  obtain ⟨hj, -⟩ := List.getElem?_eq_some_iff.1 hx
  rw [State.intWord_writeList h, if_pos (by omega), Nat.add_sub_cancel_left, hx, Option.getD_some]

theorem State.intWord_writeList_outside {s t : State} {i : Nat} {xs : List Word} (h : t.INT = Memory.writeList s.INT i xs)
    {j : Nat} (hj : j < i ∨ i + xs.length ≤ j) : t.intWord j = s.intWord j := by
  rw [State.intWord_writeList h, if_neg (by omega)]

/-! ## The quad step where the payload is in bounds -/

theorem quadInts_getElem? (f : Nat → Byte) (d : Nat) (c : Byte) {i r : Nat} (hi : i < r) :
    (quadInts f d c r)[i]? = some (assemble f (d + quadLen c i) (ctrlLen c i)) := by
  rw [quadInts, List.getElem?_map, List.getElem?_range hi]
  rfl

/-- The state after a scalar quad step over `r` integers with control byte `c`. -/
def State.afterScalarQuad (c : Byte) (r : Nat) (s : State) : State :=
  (s.advance c (quadLen c r) r).withINT (Memory.writeList s.INT s.oc (quadInts s.encByte s.dc c r))

theorem scalarQuad_of_fits {c : Byte} {s : State} (henc : s.encHas s.dc (quadLen c (quadSize s.rem)))
    (hint : s.intHas s.oc (quadSize s.rem)) : scalarQuad c s = .next (s.afterScalarQuad c (quadSize s.rem)) :=
  (if_neg (not_not.2 henc)).trans (if_neg (not_not.2 hint))

theorem State.afterScalarQuad_INT (c : Byte) (r : Nat) (s : State) :
    (s.afterScalarQuad c r).INT = Memory.writeList s.INT s.oc (quadInts s.encByte s.dc c r) := rfl

/-- Integer `i` of the quad is assembled from its own payload bytes and stored `i` places after `oc` (R133). -/
theorem State.afterScalarQuad_intWord_quad (c : Byte) (s : State) {i r : Nat} (hi : i < r) :
    (s.afterScalarQuad c r).intWord (s.oc + i) = assemble s.encByte (s.dc + quadLen c i) (ctrlLen c i) :=
  State.intWord_writeList_inside (s.afterScalarQuad_INT c r) (quadInts_getElem? s.encByte s.dc c hi)

theorem State.afterScalarQuad_intWord_outside (c : Byte) {r : Nat} {s : State} {j : Nat}
    (hj : j < s.oc ∨ s.oc + r ≤ j) : (s.afterScalarQuad c r).intWord j = s.intWord j :=
  State.intWord_writeList_outside (s.afterScalarQuad_INT c r) (by rwa [quadInts_length])

/-! ## The quad step where it is not -/

theorem scalarQuad_of_truncated {c : Byte} {s : State} (h : s.ENC_LEN < s.dc + quadLen c (quadSize s.rem)) :
    scalarQuad c s = .next (raise .truncated (s.dc + quadLen c (quadSize s.rem)) s.ENC_LEN (s.withControl c)) :=
  if_pos h.not_ge

/-- TRUNCATED loses the integers below `n` only (60_exceptions.md R186). -/
theorem raise_truncated_intWord (e a : Nat) {s : State} {j : Nat} (hj : s.n ≤ j) :
    (raise .truncated e a s).intWord j = s.intWord j :=
  State.intWord_writeList_outside (i := 0) (xs := drawnInts s.draws s.n) rfl
    (.inr (by rwa [drawnInts_length, Nat.zero_add]))

/-- Settles O24: the engine runs the decoded byte at `cc`, and the two outcomes of the quad step are `afterScalarQuad` and the
entry of TRUNCATED. -/
theorem scalarQuadStep : Obligations.ScalarQuadStep := by
  intro s b0 b1 b2 b3 hp hr c r need
  refine ⟨fun hh hcc hbyte => ?_, fun henc hint => ?_, fun htrunc => ?_⟩
  · rw [step_of_host_nil hh, engineStep_of_scalarTail hp hr hcc, hbyte, decodeCtrl_ctrlByte]
  · exact ⟨_, (exec_quad_of_scalarTail hp hr b0 b1 b2 b3).trans (scalarQuad_of_fits henc hint), rfl,
      fun i hi => s.afterScalarQuad_intWord_quad c hi, fun j hj => State.afterScalarQuad_intWord_outside c hj⟩
  · exact ⟨_, (exec_quad_of_scalarTail hp hr b0 b1 b2 b3).trans (scalarQuad_of_truncated htrunc), rfl,
      fun j hj => raise_truncated_intWord (s := s.withControl c) _ _ hj⟩

end Sys2Proof.Machine
end

section
/-! The SIMD iteration and the switch step of `DEC.V` (44_simd_decoder.md R142, R143): the engine's step in SIMD_BULK by its guard,
and the state after an iteration with what its window and each integer of INT hold. -/

namespace Sys2Proof.Machine

/-! ## The engine's step in SIMD_BULK -/

/-- The control byte at `cc` is decoded and run where it lies in ENC (R65). -/
theorem fetchQuad_of_fits {run : Instr → State → Result} {s : State} (hc : s.encHas s.cc 1) :
    fetchQuad run s = run (decodeCtrl (s.encByte s.cc)) s :=
  if_neg (not_not.2 hc)

/-- In SIMD_BULK while the guard holds, the engine runs the control byte at `cc` (R141). -/
theorem engineStep_of_guard {run : Instr → State → Result} {s : State} (hp : s.phase = .simdBulk)
    (hg : guardHolds s = true) : engineStep run s = fetchQuad run s := by
  unfold engineStep bulkStep
  rw [hp]
  exact if_pos hg

/-- In SIMD_BULK once the guard fails, the engine's step is the switch step (R143). -/
theorem engineStep_of_not_guard {run : Instr → State → Result} {s : State} (hp : s.phase = .simdBulk)
    (hg : ¬ guardHolds s = true) : engineStep run s = .next (s.withPhase .scalarTail) := by
  unfold engineStep bulkStep
  rw [hp]
  exact if_neg hg

/-- In SIMD_BULK while the guard holds, a control byte is the SIMD iteration (R142). -/
theorem exec_quad_of_guard {s : State} (hp : s.phase = .simdBulk) (hg : guardHolds s = true) (b0 b1 b2 b3 : BitVec 2) :
    exec (.quad b0 b1 b2 b3) s = simdQuad (ctrlByte b0 b1 b2 b3) s := by
  have hdue : quadDue s = true := by rw [quadDue, hp]; exact hg
  exact (if_pos hdue).trans (if_pos hp)

/-- Settles O26: the guard is false, so the engine's step is the switch step, a record update of PHASE. -/
theorem switchStep : Obligations.SwitchStep := by
  intro s hh hp hg
  rw [step_of_host_nil hh, engineStep_of_not_guard hp (mt guardHolds_iff.1 hg)]
  rfl

/-! ## The SIMD iteration -/

/-- Byte `j` of the window is the byte `j` places after the data cursor (R142). -/
theorem vecByte_loadWindow (f : Nat → Byte) (d : Nat) {j : Nat} (hj : j < 16) : vecByte (loadWindow f d) j = f (d + j) :=
  vecByte_loadLE f d hj

/-- The four integers of a vector, lane 0 first (R9). -/
def vecLanes (v : V128) : List Word := (List.range 4).map (vecLane v)

theorem vecLanes_length (v : V128) : (vecLanes v).length = 4 := rfl

theorem vecLanes_getElem? (v : V128) {i : Nat} (hi : i < 4) : (vecLanes v)[i]? = some (vecLane v i) := by
  rw [vecLanes, List.getElem?_map, List.getElem?_range hi]
  rfl

/-- What the SIMD iteration with control byte `c` loads into `V`: the window at `dc`, shuffled by the mask of `c`. -/
def State.shuffled (c : Byte) (s : State) : V128 := shuf (loadWindow s.encByte s.dc) (mtab c)

/-- The state after a SIMD iteration with control byte `c`. -/
def State.afterSimdQuad (c : Byte) (s : State) : State :=
  ((s.advance c (ptab c) 4).withVectors (mtab c) (loadWindow s.encByte s.dc) (s.shuffled c)).withINT
    (Memory.writeList s.INT s.oc (vecLanes (s.shuffled c)))

/-- The iteration where its window lies in ENC and its four integers fit INT. -/
theorem simdQuad_of_fits {c : Byte} {s : State} (henc : s.encHas s.dc 16) (hint : s.intHas s.oc 4) :
    simdQuad c s = .next (s.afterSimdQuad c) :=
  (if_neg (not_not.2 henc)).trans (if_neg (not_not.2 hint))

theorem State.afterSimdQuad_INT (c : Byte) (s : State) :
    (s.afterSimdQuad c).INT = Memory.writeList s.INT s.oc (vecLanes (s.afterSimdQuad c).V) := rfl

/-- Lane `i` of the shuffled window is stored `i` places after `oc` (R142). -/
theorem State.afterSimdQuad_intWord_lane (c : Byte) (s : State) {i : Nat} (hi : i < 4) :
    (s.afterSimdQuad c).intWord (s.oc + i) = vecLane (s.afterSimdQuad c).V i :=
  State.intWord_writeList_inside (s.afterSimdQuad_INT c) (vecLanes_getElem? _ hi)

theorem State.afterSimdQuad_intWord_outside (c : Byte) {s : State} {j : Nat} (hj : j < s.oc ∨ s.oc + 4 ≤ j) :
    (s.afterSimdQuad c).intWord j = s.intWord j :=
  State.intWord_writeList_outside (s.afterSimdQuad_INT c) (by rwa [vecLanes_length])

/-- Settles O25: the engine runs the decoded byte at `cc`, and the iteration answers `afterSimdQuad`, whose window holds the
bytes at `dc` and whose INT holds the shuffled lanes at `oc` and, elsewhere, the integers of before. -/
theorem simdIteration : Obligations.SimdIteration := by
  intro s b0 b1 b2 b3 hp hr hwindow hint c
  have hg : guardHolds s = true := guardHolds_iff.2 ⟨hr, hwindow⟩
  refine ⟨fun hh hcc hbyte => ?_, s.afterSimdQuad c,
    (exec_quad_of_guard hp hg b0 b1 b2 b3).trans (simdQuad_of_fits hwindow hint), rfl,
    fun j hj => vecByte_loadWindow s.encByte s.dc hj, fun i hi => s.afterSimdQuad_intWord_lane c hi,
    fun j hj => State.afterSimdQuad_intWord_outside c hj⟩
  rw [step_of_host_nil hh, engineStep_of_guard hp hg, fetchQuad_of_fits hcc, hbyte, decodeCtrl_ctrlByte]

end Sys2Proof.Machine
end

section
/-! The phase machine as a whole (45_driver.md R162): the phase and error code each command can start with, the engine's rows, and
the actions of the host that leave STATUS as it was. -/

namespace Sys2Proof.Machine

/-! ## The start of a command -/

/-- `t` stands where a host write of `v` to CMD can lead: a phase listed for `v` and, if that is ERROR, a code listed for `v`. -/
def State.StartedBy (v : Nat) (t : State) : Prop :=
  t.phase ∈ startPhases v ∧ (t.phase = .error → ∃ k ∈ startErrors v, t.errCode = some k)

theorem State.StartedBy.of_phase {v : Nat} {t : State} (hp : t.phase ∈ startPhases v) (hne : t.phase ≠ .error) :
    t.StartedBy v :=
  ⟨hp, fun he => absurd he hne⟩

theorem State.StartedBy.of_raise {v : Nat} {k : ErrorKind} {e a : Nat} {s : State} (hp : .error ∈ startPhases v)
    (hk : k ∈ startErrors v) : (raise k e a s).StartedBy v :=
  ⟨hp, fun _ => ⟨k, hk, rfl⟩⟩

/-- Both decodes start alike: into their own phase, or into ERROR with CONTRACT or CAPACITY (R131). -/
theorem decodeStart_startedBy {v : Nat} {st : Strategy} {ph : Phase} {s t : State} (hph : ph ≠ .error)
    (hp : startPhases v = [ph, .error]) (hk : startErrors v = [.contract, .capacity])
    (h : decodeStart st ph s = .next t) : t.StartedBy v := by
  obtain ⟨-, -, ⟨-, rfl⟩ | ⟨-, -, -, rfl⟩ | ⟨-, -, -, rfl⟩⟩ := decodeStart_next h
  · exact .of_raise (by simp [hp]) (by simp [hk])
  · exact .of_raise (by simp [hp]) (by simp [hk])
  · exact .of_phase (by simp [hp]) hph

/-- A word that decodes as a command stands in the opcode map (30_encoding.md R82). -/
theorem mem_commandRows_of_decodeCmd {v : Byte} {i : Instr} (h : decodeCmd v = .ok i) : (v, i) ∈ commandRows := by
  unfold decodeCmd at h
  split at h
  · rename_i row hrow
    cases h
    obtain rfl : row.1 = v := by simpa using List.find?_some hrow
    exact List.mem_of_find?_eq_some hrow
  · cases h

theorem not_mem_of_decodeCmd_error {v : Byte} {r : DecodeReject} (h : decodeCmd v = .error r) :
    v ∉ commandRows.map Prod.fst := by
  unfold decodeCmd at h
  split at h
  · cases h
  · rename_i hnone
    intro hmem
    obtain ⟨row, hrow, rfl⟩ := List.mem_map.1 hmem
    exact List.find?_eq_none.1 hnone row hrow (beq_self_eq_true row.1)

/-- A word outside the opcode map can only end in ERROR, with ILLEGAL_CMD (30_encoding.md R83, 60_exceptions.md R184). -/
theorem startPhases_startErrors_of_not_mem {v : Byte} (h : v ∉ commandRows.map Prod.fst) :
    startPhases v.toNat = [.error] ∧ startErrors v.toNat = [.illegalCmd] := by
  obtain ⟨h1, h2, h3, h4, h8, h9⟩ : v.toNat ≠ 0x01 ∧ v.toNat ≠ 0x02 ∧ v.toNat ≠ 0x03 ∧ v.toNat ≠ 0x04 ∧
      v.toNat ≠ 0x08 ∧ v.toNat ≠ 0x09 := by
    simpa [commandRows, ← BitVec.toNat_inj] using h
  simp [startPhases, startErrors, h1, h2, h3, h4, h8, h9]

/-- Each of the six commands starts as listed for its own word (R162). -/
theorem exec_startedBy {v : Byte} {i : Instr} (hrow : (v, i) ∈ commandRows) {s t : State} (h : exec i s = .next t) :
    t.StartedBy v.toNat := by
  simp only [commandRows, List.mem_cons, Prod.mk.injEq, List.not_mem_nil, or_false] at hrow
  rcases hrow with ⟨rfl, rfl⟩ | ⟨rfl, rfl⟩ | ⟨rfl, rfl⟩ | ⟨rfl, rfl⟩ | ⟨rfl, rfl⟩ | ⟨rfl, rfl⟩
  · obtain ⟨-, -, rfl⟩ := execBlen_next h
    exact .of_phase (.head _) nofun
  · obtain ⟨-, -, rfl⟩ := execClen_next h
    exact .of_phase (.head _) nofun
  · obtain ⟨-, -, ⟨-, rfl⟩ | ⟨-, rfl⟩⟩ := execMlen_next h
    · exact .of_raise (by decide) (by decide)
    · exact .of_phase (.head _) nofun
  · obtain ⟨-, -, ⟨-, rfl⟩ | ⟨-, rfl⟩⟩ := execEnc_next h
    · exact .of_raise (by decide) (by decide)
    · exact .of_phase (.head _) nofun
  · exact decodeStart_startedBy (ph := .scalarTail) (by decide) rfl rfl h
  · exact decodeStart_startedBy (ph := .simdBulk) (by decide) rfl rfl h

theorem startCommand_startedBy {v : Byte} {s t : State} (h : startCommand exec v s = .next t) : t.StartedBy v.toNat := by
  rcases startCommand_next h with ⟨i, hi, hrun⟩ | ⟨⟨r, hr⟩, rfl⟩
  · exact exec_startedBy (mem_commandRows_of_decodeCmd hi) hrun
  · obtain ⟨hp, hk⟩ := startPhases_startErrors_of_not_mem (not_mem_of_decodeCmd_error hr)
    exact .of_raise (by simp [hp]) (by simp [hk])

/-! ## The engine's rows -/

/-- The fields of a control byte make up that byte (30_encoding.md R84). -/
theorem ctrlByte_ctrlFields (c : Byte) :
    ctrlByte (c.extractLsb' 0 2) (c.extractLsb' 2 2) (c.extractLsb' 4 2) (c.extractLsb' 6 2) = c :=
  BitVec.eq_of_toNat_eq ((ctrlByte_toNat _ _ _ _).trans (toNat_eq_sum_of_ctrlFields c).symm)

/-- The control byte the engine decodes and runs is the quad step of the phase with that byte. -/
theorem exec_decodeCtrl_next {c : Byte} {s t : State} (h : exec (decodeCtrl c) s = .next t) : quadDue s = true ∧
    ((s.phase = .simdBulk ∧ simdQuad c s = .next t) ∨ (s.phase = .scalarTail ∧ scalarQuad c s = .next t)) := by
  have hquad := execQuad_next h
  rwa [ctrlByte_ctrlFields] at hquad

/-- The rows of R162's table that the engine takes: its move from `s` to `t`, with the row's condition. -/
def State.EngineRow (s t : State) : Prop :=
  (s.phase = .encRun ∧ 0 < s.rem ∧ t.phase = .encRun) ∨
  (s.phase = .encRun ∧ s.rem = 0 ∧ t.phase = .done) ∨
  (s.phase = .simdBulk ∧ (4 ≤ s.rem ∧ s.dc + 16 ≤ s.ENC_LEN) ∧ t.phase = .simdBulk) ∨
  (s.phase = .simdBulk ∧ ¬ (4 ≤ s.rem ∧ s.dc + 16 ≤ s.ENC_LEN) ∧ t.phase = .scalarTail) ∨
  (s.phase = .scalarTail ∧ 0 < s.rem ∧ s.dc + quadLen (s.encByte s.cc) (quadSize s.rem) ≤ s.ENC_LEN ∧
    t.phase = .scalarTail) ∨
  (s.phase = .scalarTail ∧ 0 < s.rem ∧ s.ENC_LEN < s.dc + quadLen (s.encByte s.cc) (quadSize s.rem) ∧
    t.phase = .error ∧ t.errCode = some .truncated) ∨
  (s.phase = .scalarTail ∧ s.rem = 0 ∧ t.phase = .done)

/-- A control byte run while decoding is the bulk loop's own row, or one of the tail's two. -/
theorem engineRow_of_control {s t : State} (h : exec (decodeCtrl (s.encByte s.cc)) s = .next t) : s.EngineRow t := by
  obtain ⟨hdue, ⟨hp, hq⟩ | ⟨hp, hq⟩⟩ := exec_decodeCtrl_next h
  · have hg : guardHolds s = true := by simpa [quadDue, hp] using hdue
    obtain ⟨-, -, rfl⟩ := simdQuad_next hq
    exact .inr (.inr (.inl ⟨hp, guardHolds_iff.1 hg, hp⟩))
  · have hr : 0 < s.rem := by simpa [quadDue, hp] using hdue
    rcases scalarQuad_next hq with ⟨hshort, rfl⟩ | ⟨hfits, -, rfl⟩
    · exact .inr (.inr (.inr (.inr (.inr (.inl ⟨hp, hr, hshort, rfl, rfl⟩)))))
    · exact .inr (.inr (.inr (.inr (.inl ⟨hp, hr, hfits, hp⟩))))

/-- The engine takes one of its rows, or leaves STATUS as it was while not busy. -/
theorem engineStep_status {s t : State} (h : engineStep exec s = .next t) :
    (s.busy = false ∧ t.phase = s.phase ∧ t.errCode = s.errCode) ∨ s.EngineRow t := by
  rcases engineStep_next h with ⟨hb, rfl⟩ | ⟨hp, hr, rfl⟩ | ⟨hp, hr, hq⟩ | ⟨hp, hg, rfl⟩ | ⟨hp, hr, rfl⟩ | ⟨-, -, -, hrun⟩
  · exact .inl ⟨hb, rfl, rfl⟩
  · exact .inr (.inr (.inl ⟨hp, hr, rfl⟩))
  · obtain ⟨-, -, -, rfl⟩ := encodeQuad_next hq
    exact .inr (.inl ⟨hp, hr, hp⟩)
  · exact .inr (.inr (.inr (.inr (.inl ⟨hp, mt guardHolds_iff.2 (by simp [hg]), rfl⟩))))
  · exact .inr (.inr (.inr (.inr (.inr (.inr (.inr ⟨hp, hr, rfl⟩))))))
  · exact .inr (engineRow_of_control hrun)

/-! ## Actions that leave STATUS as it was -/

@[simp] theorem State.storeOperand_phase (r v : Nat) (s : State) : (s.storeOperand r v).phase = s.phase := by
  unfold State.storeOperand
  split_ifs <;> rfl

@[simp] theorem State.storeOperand_errCode (r v : Nat) (s : State) : (s.storeOperand r v).errCode = s.errCode := by
  unfold State.storeOperand
  split_ifs <;> rfl

@[simp] theorem hostRead_phase (r : Nat) (s : State) : (hostRead r s).phase = s.phase := by
  obtain ⟨rs, d, heq⟩ := hostRead_eq r s
  rw [heq]

@[simp] theorem hostRead_errCode (r : Nat) (s : State) : (hostRead r s).errCode = s.errCode := by
  obtain ⟨rs, d, heq⟩ := hostRead_eq r s
  rw [heq]

theorem State.not_busy_of_ended {s : State} (h : s.ended = true) : s.busy = false := by
  rw [← Bool.not_eq_true, State.busy_iff]
  rcases (by simpa using State.ended_iff.1 h) with hp | hp <;> simp [hp]

/-- A host write starts a command, if it is one to CMD, or leaves STATUS as it was. -/
theorem hostWrite_status {r v : Nat} {s t : State} (h : hostWrite exec r v s = .next t) :
    (r = 0 ∧ s.busy = false ∧ t.StartedBy v) ∨
      (t.phase = s.phase ∧ t.errCode = s.errCode ∧ (9 ≤ r ∨ (r ≠ 0 ∧ s.busy = false))) := by
  rcases hostWrite_next h with ⟨hr, rfl⟩ | ⟨-, hb, hfit, ⟨rfl, hstart⟩ | ⟨hr, rfl⟩⟩
  · exact .inr ⟨rfl, rfl, .inl hr⟩
  · have hv : v < 2 ^ 8 := by simpa [HostOp.wellFormed, writableWidth] using hfit
    have hstarted := startCommand_startedBy hstart
    rw [BitVec.toNat_ofNat, Nat.mod_eq_of_lt hv] at hstarted
    exact .inl ⟨rfl, hb, hstarted⟩
  · exact .inr ⟨s.storeOperand_phase r v, s.storeOperand_errCode r v, .inr ⟨hr, hb⟩⟩

/-! ## The obligation -/

/-- The host leaves the step to the engine: it has no action pending, or waits, or passes. -/
def State.EngineTurn (s : State) : Prop :=
  s.host = [] ∨ (∃ rest, s.host = .wait :: rest) ∨ ∃ rest, s.host = .pass :: rest

/-- What `Obligations.PhaseMovesOnlyAsListed` claims of a step from `s` to `t`. -/
def State.MovesAsListed (s t : State) : Prop :=
  ((∃ rest, s.host = .reset :: rest) ∧ t.phase = .idle) ∨
  (∃ v rest, s.host = .wr 0 v :: rest ∧ s.busy = false ∧ t.StartedBy v) ∨
  (s.EngineTurn ∧ s.EngineRow t) ∨
  (t.phase = s.phase ∧ t.errCode = s.errCode ∧
    ((∃ r rest, s.host = .rd r :: rest) ∨ (∃ r v rest, s.host = .wr r v :: rest ∧ 9 ≤ r) ∨
      (s.busy = false ∧ (∀ v rest, s.host ≠ .wr 0 v :: rest) ∧ ∀ rest, s.host ≠ .reset :: rest)))

/-- While not busy, STATUS may stay as it was under any action but a write to CMD and reset. -/
theorem State.MovesAsListed.of_not_busy {s t : State} (hb : s.busy = false) (hp : t.phase = s.phase)
    (he : t.errCode = s.errCode) (hw : ∀ v rest, s.host ≠ .wr 0 v :: rest) (hr : ∀ rest, s.host ≠ .reset :: rest) :
    s.MovesAsListed t :=
  .inr (.inr (.inr ⟨hp, he, .inr (.inr ⟨hb, hw, hr⟩)⟩))

theorem State.MovesAsListed.of_engineTurn {s t : State} (hturn : s.EngineTurn)
    (h : (s.busy = false ∧ t.phase = s.phase ∧ t.errCode = s.errCode) ∨ s.EngineRow t) : s.MovesAsListed t := by
  rcases h with ⟨hb, hp, he⟩ | hrow
  · rcases hturn with hh | ⟨rest, hh⟩ | ⟨rest, hh⟩ <;> exact .of_not_busy hb hp he (by simp [hh]) (by simp [hh])
  · exact .inr (.inr (.inl ⟨hturn, hrow⟩))

/-- Every step moves as listed, whatever the host's oldest action is. -/
theorem step_movesAsListed {s t : State} (h : step s = .next t) : s.MovesAsListed t := by
  cases hh : s.host with
  | nil =>
    rw [step_of_host_nil hh] at h
    exact .of_engineTurn (.inl hh) (engineStep_status h)
  | cons op rest =>
    rw [step_of_host_cons hh] at h
    cases op with
    | reset =>
      cases h
      exact .inl ⟨⟨rest, hh⟩, rfl⟩
    | wr r v =>
      rcases hostWrite_status h with ⟨rfl, hb, hstarted⟩ | ⟨hp, he, hr | ⟨hr, hb⟩⟩
      · exact .inr (.inl ⟨v, rest, hh, hb, hstarted⟩)
      · exact .inr (.inr (.inr ⟨hp, he, .inr (.inl ⟨r, v, rest, hh, hr⟩)⟩))
      · exact .of_not_busy hb hp he (by simp [hh, hr]) (by simp [hh])
    | rd r =>
      cases h
      exact .inr (.inr (.inr ⟨hostRead_phase r _, hostRead_errCode r _, .inl ⟨r, rest, hh⟩⟩))
    | wait =>
      rw [hostStep_wait] at h
      split at h
      next hended =>
        cases h
        have hb : s.busy = false := (s.withHost rest).not_busy_of_ended hended
        exact .of_not_busy hb rfl rfl (by simp [hh]) (by simp [hh])
      next => exact .of_engineTurn (.inr (.inl ⟨rest, hh⟩)) (engineStep_status h)
    | pass =>
      have hstatus := engineStep_status h
      exact .of_engineTurn (.inr (.inr ⟨rest, hh⟩)) hstatus
    | fillEnc _ _ | fillInt _ _ | dumpEnc _ _ | dumpInt _ _ =>
      obtain ⟨hb, -, rfl⟩ := bufferAccess_next h
      exact .of_not_busy hb rfl rfl (by simp [hh]) (by simp [hh])

/-- Settles O47, by the host's oldest action: the engine's rows where the step is left to the engine, the start of a command under
a write to CMD, IDLE under reset, and STATUS as it was under everything else. -/
theorem phaseMovesOnlyAsListed : Obligations.PhaseMovesOnlyAsListed :=
  fun _ _ h => step_movesAsListed h

end Sys2Proof.Machine
end

section
/-! The entry of an error (60_exceptions.md R186) and the write of an opcode that no row of the opcode map lists (R184). -/

namespace Sys2Proof.Machine

/-! ## Error entry -/

/-- The entry of an error leaves the integers from `n` on as they were: TRUNCATED loses only those below `n`, and no other
error touches INT. -/
theorem raise_intWord_of_n_le (k : ErrorKind) (e a : Nat) {s : State} {j : Nat} (hj : s.n ≤ j) :
    (raise k e a s).intWord j = s.intWord j := by
  by_cases hk : k = .truncated
  · rw [hk]
    exact raise_truncated_intWord e a hj
  · rw [raise_of_ne hk]
    rfl

/-- Settles O35: the recorded fields and the frame by `raise_eq`, whose entries for INT and the draws change for TRUNCATED alone,
and the integers from `n` on whatever the error is. -/
theorem errorEntry : Obligations.ErrorEntry := by
  intro k expected available s t
  have ht : t = _ := raise_eq k expected available s
  refine ⟨?_, fun hk => ?_, fun j hj => raise_intWord_of_n_le k expected available hj⟩
  · rw [ht]
    rfl
  · rw [ht]
    exact ⟨if_neg hk, if_neg hk⟩

/-! ## The write of an unlisted opcode -/

/-- A byte written to CMD while the unit is not busy starts that command (10_state.md R23). -/
theorem hostWrite_CMD {run : Instr → State → Result} {v : Nat} {s : State} (hb : s.busy = false) (hv : v < 256) :
    hostWrite run 0 v s = startCommand run (BitVec.ofNat 8 v) s := by
  have hfit : (HostOp.wr 0 v).wellFormed s.aw = true := by simpa [HostOp.wellFormed, writableWidth] using hv
  simp [hostWrite, registerCount, hb, hfit]

theorem startCommand_of_not_mem {run : Instr → State → Result} {v : Byte} (hv : v ∉ commandRows.map Prod.fst) (s : State) :
    startCommand run v s = .next (raise .illegalCmd 0 0 (s.withCMD v)) := by
  rw [startCommand, decodeCmd_of_not_mem hv]

/-- A number below 256 outside the six opcodes is, as a byte, in no row of the opcode map (30_encoding.md R82). -/
theorem ofNat_not_mem_commandRows {v : Nat} (hlt : v < 256) (hv : v ∉ [0x01, 0x02, 0x03, 0x04, 0x08, 0x09]) :
    BitVec.ofNat 8 v ∉ commandRows.map Prod.fst := by
  simpa [commandRows, ← BitVec.toNat_inj, Nat.mod_eq_of_lt hlt] using hv

/-- Settles O37: the write starts a command no row lists, which enters ILLEGAL_CMD with CMD holding the byte. -/
theorem illegalCommandWrite : Obligations.IllegalCommandWrite := by
  intro s v rest hhost hb hlt hv
  calc step s
    _ = hostWrite exec 0 v (s.withHost rest) := step_of_host_cons hhost
    _ = startCommand exec (BitVec.ofNat 8 v) (s.withHost rest) := hostWrite_CMD (s := s.withHost rest) hb hlt
    _ = .next (raise .illegalCmd 0 0 ((s.withHost rest).withCMD (BitVec.ofNat 8 v))) :=
      startCommand_of_not_mem (ofNat_not_mem_commandRows hlt hv) _
    _ = _ := by
      rw [raise_of_ne (by decide), Nat.zero_min]
      rfl

end Sys2Proof.Machine
end

section
/-! Instruction words in both directions (30_encoding.md sections 2 and 3), and `byte_length` as the least length that
holds an integer (40_format_primitives.md R100, R101). -/

namespace Sys2Proof.Machine

/-! ## Instruction words -/

/-- Settles O2, by decoding the five words. -/
theorem controlWordsDecodeByFields : Obligations.ControlWordsDecodeByFields := by
  unfold Obligations.ControlWordsDecodeByFields
  decide

/-- The opcode map lists each command beside its own word (R82). -/
theorem encode_of_mem_commandRows {row : Byte × Instr} (h : row ∈ commandRows) : encode row.2 = row.1 := by
  revert row
  decide

/-- The opcode map lists commands only (30_encoding.md R82). -/
theorem isCommand_of_mem_commandRows {row : Byte × Instr} (h : row ∈ commandRows) : row.2.isCommand = true := by
  revert row
  decide

theorem decodeAs_encode (i : Instr) : decodeAs i.isCommand (encode i) = .ok i := by
  cases i with
  | blen | clen | mlen | enc | decS | decV => rfl
  | quad b0 b1 b2 b3 => exact congrArg Except.ok (decodeCtrl_ctrlByte b0 b1 b2 b3)

/-- Settles O4: a command word decodes by its row of the opcode map, a control byte by its fields. -/
theorem decodingInvertsEncoding : Obligations.DecodingInvertsEncoding := by
  refine ⟨fun i _ => decodeAs_encode i, fun command w i h => ?_⟩
  cases command with
  | true =>
    have hrow := mem_commandRows_of_decodeCmd h
    exact ⟨encode_of_mem_commandRows hrow, isCommand_of_mem_commandRows hrow⟩
  | false =>
    cases h
    exact ⟨ctrlByte_ctrlFields w, rfl⟩

/-! ## The length of an integer -/

theorem toNat_lt_of_byteLength (x : Word) : x.toNat < 256 ^ byteLength x := by
  have hx := x.isLt
  unfold byteLength
  split_ifs <;> omega

/-- `byte_length` is adjoint to the powers of 256: the least length of at least 1 that holds the integer (R100). -/
theorem byteLength_le_iff {x : Word} {l : Nat} : byteLength x ≤ l ↔ 1 ≤ l ∧ x.toNat < 2 ^ (8 * l) := by
  constructor
  · intro h
    have hx := toNat_lt_of_byteLength x
    rw [Nat.pow_mul]
    exact ⟨(byteLength_pos x).trans h, hx.trans_le (Nat.pow_le_pow_right (by decide) h)⟩
  · rintro ⟨hl, hx⟩
    unfold byteLength
    rcases lt_or_ge l 4 with hlt | hge
    · interval_cases l <;> split_ifs <;> omega
    · split_ifs <;> omega

/-- `bits_required` is adjoint to the powers of 2: the number of digits of the binary numeral (R101, log 22). -/
theorem bitsRequired_le_iff {x : Word} {m : Nat} : bitsRequired x ≤ m ↔ x.toNat < 2 ^ m := by
  unfold bitsRequired
  split
  next hzero => simp [hzero]
  next hne => rw [Nat.succ_le_iff, Nat.log2_lt hne]

/-- The length in bytes is the length in bits, rounded up, and at least 1: both sides are at most the same lengths. -/
theorem byteLength_eq_ceil_bitsRequired (x : Word) : byteLength x = max 1 ((bitsRequired x + 7) / 8) := by
  refine eq_of_forall_ge_iff fun l => ?_
  rw [byteLength_le_iff, ← bitsRequired_le_iff, max_le_iff]
  omega

/-- Settles O5: the bounds, and the adjunction read at the length itself and at any other. -/
theorem byteLengthIsMinimal : Obligations.ByteLengthIsMinimal :=
  fun x => ⟨byteLength_pos x, byteLength_le x, (byteLength_le_iff.1 le_rfl).2,
    fun _ hl hx => byteLength_le_iff.2 ⟨hl, hx⟩, byteLength_eq_ceil_bitsRequired x⟩

/-! ## The length of a stream -/

theorem byteLength_eq_one_iff {x : Word} : byteLength x = 1 ↔ x.toNat < 256 := by
  rw [← (byteLength_pos x).ge_iff_eq', byteLength_le_iff]
  simp

/-- The payloads of a list take at most four bytes an integer, and exactly so where each takes four. -/
theorem sum_byteLength_eq_max_iff (xs : List Word) :
    (xs.map byteLength).sum = 4 * xs.length ↔ ∀ x ∈ xs, byteLength x = 4 := by
  induction xs with
  | nil => simp
  | cons x xs ih =>
    have hx := byteLength_le x
    have hxs := payloads_length xs ▸ payloads_length_le xs
    rw [List.map_cons, List.sum_cons, List.length_cons, List.forall_mem_cons, ← ih]
    omega

/-- The payloads of a list take at least one byte an integer. -/
theorem length_le_sum_byteLength (xs : List Word) : xs.length ≤ (xs.map byteLength).sum := by
  simpa using List.card_nsmul_le_sum (xs.map byteLength) 1 (by simpa using fun x _ => byteLength_pos x)

/-- Exactly so where each integer is below 256. -/
theorem sum_byteLength_eq_min_iff (xs : List Word) :
    xs.length = (xs.map byteLength).sum ↔ ∀ x ∈ xs, x.toNat < 256 := by
  induction xs with
  | nil => simp
  | cons x xs ih =>
    have hx := byteLength_pos x
    have hxs := length_le_sum_byteLength xs
    rw [List.map_cons, List.sum_cons, List.length_cons, List.forall_mem_cons, ← ih, ← byteLength_eq_one_iff]
    omega

/-- Settles O21: the control stream has a fixed length, so both bounds are those of the payloads. -/
theorem encodedLengthBounds : Obligations.EncodedLengthBounds := by
  intro xs
  have hmin := length_le_sum_byteLength xs
  refine ⟨encodeFn_length_le xs, ?_, ?_, ?_⟩
  · rw [encodeFn_length, maxEncodedLen, Nat.add_left_cancel_iff, sum_byteLength_eq_max_iff]
  · rw [encodeFn_length]
    omega
  · rw [encodeFn_length, Nat.add_left_cancel_iff, sum_byteLength_eq_min_iff]

end Sys2Proof.Machine
end

section
/-! The round trip of the codec (42_scalar_encoder.md, 43_scalar_decoder.md): the decoder reads one quad's integers back
from the payloads behind its control byte, and, quad by quad, the whole list from the stream. -/

namespace Sys2Proof.Machine

/-! ## One integer read back from its payload -/

/-- Bytes that are the base-256 digits of `m` make up `m`, cut to their number. -/
theorem loadLE_of_digits {f : Nat → Byte} {a k m : Nat} (h : ∀ j < k, (f (a + j)).toNat = m / 256 ^ j % 256) :
    loadLE f a k = m % 256 ^ k := by
  induction k generalizing a m with
  | zero => rw [loadLE, Nat.pow_zero, Nat.mod_one]
  | succ k ih =>
    have hlow : (f a).toNat = m % 256 := by simpa using h 0 k.succ_pos
    have hrest : loadLE f (a + 1) k = m / 256 % 256 ^ k := ih fun j hj => by
      rw [Nat.add_assoc, Nat.add_comm 1 j, h (j + 1) (by omega), Nat.pow_succ', Nat.div_div_eq_div_mul]
    rw [loadLE, hlow, hrest, Nat.pow_succ', Nat.mod_mul]

/-- The bytes of an integer's payload assemble to the integer. -/
theorem assemble_of_payload {f : Nat → Byte} {d : Nat} {x : Word}
    (h : ∀ j < byteLength x, f (d + j) = x.extractLsb' (8 * j) 8) : assemble f d (byteLength x) = x := by
  apply BitVec.eq_of_toNat_eq
  rw [assemble_toNat f d (byteLength_le x), loadLE_of_digits (m := x.toNat), Nat.mod_eq_of_lt (toNat_lt_of_byteLength x)]
  intro j hj
  rw [h j hj, BitVec.extractLsb'_toNat, Nat.shiftRight_eq_div_pow, Nat.pow_mul]

/-! ## One quad read back from its payloads -/

/-- `f` holds the bytes `bs` from `d` on. -/
def HoldsAt (f : Nat → Byte) (d : Nat) (bs : List Byte) : Prop := ∀ (j : Nat) (b : Byte), bs[j]? = some b → f (d + j) = b

theorem HoldsAt.append_left {f : Nat → Byte} {d : Nat} {bs cs : List Byte} (h : HoldsAt f d (bs ++ cs)) : HoldsAt f d bs := by
  intro j b hb
  obtain ⟨hj, -⟩ := List.getElem?_eq_some_iff.1 hb
  exact h j b (by rwa [List.getElem?_append_left hj])

theorem HoldsAt.append_right {f : Nat → Byte} {d : Nat} {bs cs : List Byte} (h : HoldsAt f d (bs ++ cs)) :
    HoldsAt f (d + bs.length) cs := by
  intro j b hb
  rw [Nat.add_assoc]
  exact h _ b (by rwa [List.getElem?_append_right (Nat.le_add_right _ _), Nat.add_sub_cancel_left])

/-- The lengths in a quad's control byte add up to where each integer's payload starts. -/
theorem quadLen_quadControl {xs : List Word} {i : Nat} (h4 : i ≤ 4) (hi : i ≤ xs.length) :
    quadLen (quadControl xs) i = ((xs.map byteLength).take i).sum := by
  induction i with
  | zero => rfl
  | succ i ih =>
    have hlen : i < (xs.map byteLength).length := by simpa using hi
    rw [quadLen, ih (by omega) (by omega), ctrlLen_quadControl _ (by omega), List.getD_eq_getElem _ _ hlen,
      List.take_succ_eq_append_getElem hlen, List.sum_append, List.sum_singleton]

/-- With all of the quad's integers: the bytes of its payloads. -/
theorem quadLen_quadControl_length {xs : List Word} (h : xs.length ≤ 4) :
    quadLen (quadControl xs) xs.length = (payloads xs).length := by
  rw [quadLen_quadControl h le_rfl, List.take_of_length_le (by simp), payloads_length]

/-- A quad's integers are what its control byte and its payloads decode to. -/
theorem quadInts_of_payloads {f : Nat → Byte} {d : Nat} {xs : List Word} (h4 : xs.length ≤ 4)
    (hf : HoldsAt f d (payloads xs)) : quadInts f d (quadControl xs) xs.length = xs := by
  refine List.ext_getElem (by simp) fun i hi hx => ?_
  have hlen : ctrlLen (quadControl xs) i = byteLength xs[i] := by
    rw [ctrlLen_quadControl _ (by omega), List.getD_eq_getElem _ _ (by simpa using hx), List.getElem_map]
  have hbytes : assemble f (d + quadLen (quadControl xs) i) (ctrlLen (quadControl xs) i) = xs[i] := by
    rw [quadLen_quadControl (by omega) hx.le, hlen]
    refine assemble_of_payload fun j hj => ?_
    rw [Nat.add_assoc]
    exact hf _ _ (payloads_getElem? (List.getElem?_eq_getElem hx) hj)
  rw [← hbytes, ← Option.some_inj, ← List.getElem?_eq_getElem hi, quadInts_getElem? f d _ hx]

/-! ## The whole stream -/

theorem payloads_append (xs ys : List Word) : payloads (xs ++ ys) = payloads xs ++ payloads ys :=
  List.flatMap_append

/-- The quads left, the first one in bounds: its integers, then those of the others. -/
theorem decodeQuads_succ_of_fits {f : Nat → Byte} {len n k q d : Nat}
    (hlen : d + quadLen (f q) (quadSize (n - 4 * q)) ≤ len) : decodeQuads f len n (k + 1) q d =
      (decodeQuads f len n k (q + 1) (d + quadLen (f q) (quadSize (n - 4 * q)))).map
        fun p => (quadInts f d (f q) (quadSize (n - 4 * q)) ++ p.1, p.2) := by
  simp only [decodeQuads]
  rw [if_neg hlen.not_gt]
  cases decodeQuads f len n k (q + 1) (d + quadLen (f q) (quadSize (n - 4 * q))) <;> rfl

theorem decodeQuads_succ_of_short {f : Nat → Byte} {len n k q d : Nat}
    (hlen : len < d + quadLen (f q) (quadSize (n - 4 * q))) :
    decodeQuads f len n (k + 1) q d = .error (.truncated (d + quadLen (f q) (quadSize (n - 4 * q)))) := by
  simp only [decodeQuads]
  exact if_pos hlen

/-- The quads of `xs` from quad `q` on decode to the integers that are left, one quad at a time. -/
theorem decodeQuads_of_stream {f : Nat → Byte} {len : Nat} {xs : List Word}
    (hctrl : ∀ q < controlStreamLen xs.length, f q = quadControl ((xs.drop (4 * q)).take 4)) {k q d : Nat}
    (hk : q + k = controlStreamLen xs.length) (hdata : HoldsAt f d (payloads (xs.drop (4 * q))))
    (hlen : d + (payloads (xs.drop (4 * q))).length ≤ len) :
    decodeQuads f len xs.length k q d = .ok (xs.drop (4 * q), d + (payloads (xs.drop (4 * q))).length) := by
  induction k generalizing q d with
  | zero =>
    have hdone : xs.drop (4 * q) = [] := List.drop_eq_nil_of_le (controlStreamLen_le_iff.1 hk.ge)
    simp [decodeQuads, hdone]
  | succ k ih =>
    have hquads : xs.drop (4 * q) = (xs.drop (4 * q)).take 4 ++ xs.drop (4 * (q + 1)) := by
      rw [Nat.mul_succ, ← List.drop_drop, List.take_append_drop]
    have hsize : quadSize (xs.length - 4 * q) = ((xs.drop (4 * q)).take 4).length := by
      rw [List.length_take, List.length_drop, quadSize]
    have hf := hctrl q (by omega)
    generalize (xs.drop (4 * q)).take 4 = quad at *
    have h4 : quad.length ≤ 4 := hsize ▸ quadSize_le _
    have hpay : payloads (xs.drop (4 * q)) = payloads quad ++ payloads (xs.drop (4 * (q + 1))) := by
      rw [hquads, payloads_append]
    rw [hpay] at hdata hlen ⊢
    rw [List.length_append] at hlen ⊢
    have hrest := ih (q := q + 1) (d := d + (payloads quad).length) (by omega) hdata.append_right (by omega)
    have hneed : quadLen (f q) (quadSize (xs.length - 4 * q)) = (payloads quad).length := by
      rw [hf, hsize, quadLen_quadControl_length h4]
    rw [decodeQuads_succ_of_fits (by omega), hneed, hrest, hf, hsize, quadInts_of_payloads h4 hdata.append_left]
    simp only [Except.map, ← hquads, Nat.add_assoc]

/-- Settles O33: the stream starts with the control stream, the payloads follow, and the quads decode one by one. -/
theorem decodeInvertsEncode : Obligations.DecodeInvertsEncode := by
  intro xs tail
  have hlen := encodeFn_length xs
  have hpay := payloads_length xs
  have hread {a : Nat} {b : Byte} (h : (encodeFn xs)[a]? = some b) : (encodeFn xs ++ tail).getD a 0 = b := by
    obtain ⟨ha, -⟩ := List.getElem?_eq_some_iff.1 h
    rw [List.getD_eq_getElem?_getD, List.getElem?_append_left ha, h, Option.getD_some]
  have hone := length_le_sum_byteLength xs
  rw [decodeFn, List.length_append, if_neg (by omega)]
  have hquads := decodeQuads_of_stream (f := fun a => (encodeFn xs ++ tail).getD a 0)
    (len := (encodeFn xs).length + tail.length) (k := controlStreamLen xs.length) (q := 0)
    (d := controlStreamLen xs.length) (fun q hq => hread (encodeFn_getElem?_control hq)) (Nat.zero_add _)
    (fun j b hb => hread (by rwa [encodeFn_getElem?_data])) (by rw [Nat.mul_zero, List.drop_zero]; omega)
  rwa [Nat.mul_zero, List.drop_zero, hpay, ← hlen] at hquads

end Sys2Proof.Machine
end

section
/-! What a step can do (45_driver.md R160 to R164), said once: the moves of the engine, of a command's first step and of
the host, each with the condition it is taken under and the state it leads to. -/

namespace Sys2Proof.Machine

/-! ## The moves of the engine -/

/-- A move of the engine from `s` to `t`: one constructor per row of R162's table, and the stutter of a unit that is not
busy. -/
inductive State.EngineMove (s t : State) : Prop
  | idle (hb : s.busy = false) (ht : t = s)
  | finished (hp : s.phase = .encRun ∨ s.phase = .scalarTail) (hr : s.rem = 0) (ht : t = s.finish s.dc)
  | encoded (hp : s.phase = .encRun) (hr : 0 < s.rem) (hint : s.intHas s.oc (quadSize s.rem)) (hcc : s.encHas s.cc 1)
      (hfits : s.encHas s.dc (payloads (s.intWords s.oc (quadSize s.rem))).length)
      (ht : t = s.afterEncodeQuad (s.intWords s.oc (quadSize s.rem)))
  | switched (hp : s.phase = .simdBulk) (hg : guardHolds s = false) (ht : t = s.withPhase .scalarTail)
  | iterated (hp : s.phase = .simdBulk) (hg : guardHolds s = true) (hcc : s.encHas s.cc 1) (hint : s.intHas s.oc 4)
      (ht : t = s.afterSimdQuad (s.encByte s.cc))
  | decoded (hp : s.phase = .scalarTail) (hr : 0 < s.rem) (hcc : s.encHas s.cc 1)
      (hfits : s.encHas s.dc (quadLen (s.encByte s.cc) (quadSize s.rem))) (hint : s.intHas s.oc (quadSize s.rem))
      (ht : t = s.afterScalarQuad (s.encByte s.cc) (quadSize s.rem))
  | truncated (hp : s.phase = .scalarTail) (hr : 0 < s.rem) (hcc : s.encHas s.cc 1)
      (hshort : s.ENC_LEN < s.dc + quadLen (s.encByte s.cc) (quadSize s.rem))
      (ht : t = raise .truncated (s.dc + quadLen (s.encByte s.cc) (quadSize s.rem)) s.ENC_LEN
        (s.withControl (s.encByte s.cc)))

/-- The control byte at `cc`, run while decoding, is the move of its phase. -/
theorem engineMove_of_control {s t : State} (hcc : s.encHas s.cc 1) (h : exec (decodeCtrl (s.encByte s.cc)) s = .next t) :
    s.EngineMove t := by
  obtain ⟨hdue, ⟨hp, hq⟩ | ⟨hp, hq⟩⟩ := exec_decodeCtrl_next h
  · have hg : guardHolds s = true := by simpa [quadDue, hp] using hdue
    obtain ⟨-, hint, ht⟩ := simdQuad_next hq
    exact .iterated hp hg hcc hint ht
  · have hr : 0 < s.rem := by simpa [quadDue, hp] using hdue
    obtain ⟨hshort, ht⟩ | ⟨hfits, hint, ht⟩ := scalarQuad_next hq
    · exact .truncated hp hr hcc hshort ht
    · exact .decoded hp hr hcc hfits hint ht

theorem engineStep_move {s t : State} (h : engineStep exec s = .next t) : s.EngineMove t := by
  rcases engineStep_next h with ⟨hb, ht⟩ | ⟨hp, hr, ht⟩ | ⟨hp, hr, hq⟩ | ⟨hp, hg, ht⟩ | ⟨hp, hr, ht⟩ | ⟨-, -, hcc, hrun⟩
  · exact .idle hb ht
  · exact .finished (.inl hp) hr ht
  · obtain ⟨hint, hcc, hfits, rfl⟩ := encodeQuad_next hq
    refine .encoded hp hr hint hcc hfits ?_
    rw [State.afterEncodeQuad, State.intWords_length]
    rfl
  · exact .switched hp hg ht
  · exact .finished (.inr hp) hr ht
  · exact engineMove_of_control hcc hrun

/-! ## The moves of a command's first step -/

/-- The first step of a command, from `s` to `t`: its end, with a result that fits RESULT; an error, which is not
TRUNCATED; or the start of an encode or of a decode, after its checks. -/
inductive State.CommandMove (s t : State) : Prop
  | finished (r : Nat) (hr : s.WidthsOk → r < 2 ^ s.aw) (ht : t = primitiveDone r s)
  | failed (k : ErrorKind) (e a : Nat) (hk : k ≠ .truncated) (ha : s.WidthsOk → a < 2 ^ s.aw) (ht : t = raise k e a s)
  | encodes (hcap : maxEncodedLen s.INT_LEN ≤ s.ENC_LEN) (ht : t = s.latch s.INT_LEN s.strat .encRun)
  | decodes (st : Strategy) (ph : Phase) (hph : (st = .scalar ∧ ph = .scalarTail) ∨ (st = .simd ∧ ph = .simdBulk))
      (henough : controlStreamLen s.N + s.N ≤ s.ENC_LEN) (hcap : s.N ≤ s.INT_LEN) (ht : t = s.latch s.N st ph)

/-- The lengths an integer can take fit RESULT, AW being at least 8. -/
theorem byteLength_lt_of_widths {s : State} (x : Word) (hw : s.WidthsOk) : byteLength x < 2 ^ s.aw := by
  have hx := byteLength_le x
  have haw : 2 ^ 8 ≤ 2 ^ s.aw := Nat.pow_le_pow_right (by decide) hw.aw_ge
  omega

theorem decodeStart_move {st : Strategy} {ph : Phase} {s t : State}
    (hph : (st = .scalar ∧ ph = .scalarTail) ∨ (st = .simd ∧ ph = .simdBulk)) (h : decodeStart st ph s = .next t) :
    s.busy = false ∧ s.CommandMove t := by
  obtain ⟨hb, -, ⟨-, ht⟩ | ⟨-, -, -, ht⟩ | ⟨henough, -, hcap, ht⟩⟩ := decodeStart_next h
  · exact ⟨hb, .failed _ _ _ (by decide) (·.ENC_LEN_lt) ht⟩
  · exact ⟨hb, .failed _ _ _ (by decide) (·.INT_LEN_lt) ht⟩
  · exact ⟨hb, .decodes st ph hph henough hcap ht⟩

theorem exec_command_move {i : Instr} {s t : State} (hi : i.isCommand = true) (h : exec i s = .next t) :
    s.busy = false ∧ s.CommandMove t := by
  cases i with
  | blen =>
    obtain ⟨hb, -, ht⟩ := execBlen_next h
    exact ⟨hb, .finished _ (byteLength_lt_of_widths s.X) ht⟩
  | clen =>
    obtain ⟨hb, -, ht⟩ := execClen_next h
    exact ⟨hb, .finished _ (fun hw => (controlStreamLen_le s.N).trans_lt hw.N_lt) ht⟩
  | mlen =>
    obtain ⟨hb, -, ⟨-, ht⟩ | ⟨hfits, ht⟩⟩ := execMlen_next h
    · exact ⟨hb, .failed _ _ _ (by decide) (fun _ => Nat.two_pow_pos s.aw) ht⟩
    · exact ⟨hb, .finished _ (fun _ => hfits) ht⟩
  | enc =>
    obtain ⟨hb, -, ⟨-, ht⟩ | ⟨hcap, ht⟩⟩ := execEnc_next h
    · exact ⟨hb, .failed _ _ _ (by decide) (·.ENC_LEN_lt) ht⟩
    · exact ⟨hb, .encodes hcap ht⟩
  | decS => exact decodeStart_move (.inl ⟨rfl, rfl⟩) h
  | decV => exact decodeStart_move (.inr ⟨rfl, rfl⟩) h
  | quad b0 b1 b2 b3 => cases hi

theorem isCommand_of_decodeCmd {v : Byte} {i : Instr} (h : decodeCmd v = .ok i) : i.isCommand = true :=
  isCommand_of_mem_commandRows (mem_commandRows_of_decodeCmd h)

/-- A write to CMD makes the first step of a command, an unlisted opcode's being its error. -/
theorem startCommand_move {v : Byte} {s t : State} (h : startCommand exec v s = .next t) :
    (s.withCMD v).CommandMove t := by
  obtain ⟨i, hi, hrun⟩ | ⟨-, ht⟩ := startCommand_next h
  · exact (exec_command_move (isCommand_of_decodeCmd hi) hrun).2
  · exact .failed _ _ _ (by decide) (fun _ => Nat.two_pow_pos _) ht

/-! ## The moves of the machine -/

/-- A move of the machine from `s` to `t`, by the host's oldest action. -/
inductive State.Move (s t : State) : Prop
  | engine (rest : List HostOp) (hturn : s.EngineTurn) (hmove : (s.withHost rest).EngineMove t)
  | waited (rest : List HostOp) (hh : s.host = .wait :: rest) (hended : s.ended = true) (ht : t = s.withHost rest)
  | ignored (r v : Nat) (rest : List HostOp) (hh : s.host = .wr r v :: rest) (ht : t = s.withHost rest)
  | started (v : Nat) (rest : List HostOp) (hh : s.host = .wr 0 v :: rest) (hb : s.busy = false)
      (hmove : ((s.withHost rest).withCMD (BitVec.ofNat 8 v)).CommandMove t)
  | stored (r v : Nat) (rest : List HostOp) (hh : s.host = .wr r v :: rest) (hb : s.busy = false)
      (hfit : (HostOp.wr r v).wellFormed s.aw = true) (ht : t = (s.withHost rest).storeOperand r v)
  | read (r : Nat) (rest : List HostOp) (hh : s.host = .rd r :: rest) (ht : t = hostRead r (s.withHost rest))
  | reset (rest : List HostOp) (hh : s.host = .reset :: rest) (ht : t = resetUnit (s.withHost rest))
  | filledEnc (a : Nat) (bytes : List Byte) (rest : List HostOp) (hb : s.busy = false) (hfit : a + bytes.length ≤ 2 ^ s.aw)
      (ht : t = (s.withHost rest).withENC (Memory.writeList s.ENC a bytes))
  | filledInt (i : Nat) (xs : List Word) (rest : List HostOp) (hb : s.busy = false) (hfit : i + xs.length ≤ 2 ^ s.aw)
      (ht : t = (s.withHost rest).withINT (Memory.writeList s.INT i xs))
  | dumped (r : Readout) (rest : List HostOp) (hb : s.busy = false) (ht : t = (s.withHost rest).addReadout r)

theorem hostWrite_move {r v : Nat} {rest : List HostOp} {s t : State} (hh : s.host = .wr r v :: rest)
    (h : hostWrite exec r v (s.withHost rest) = .next t) : s.Move t := by
  obtain ⟨-, ht⟩ | ⟨-, hb, hfit, ⟨rfl, hstart⟩ | ⟨-, ht⟩⟩ := hostWrite_next h
  · exact .ignored r v rest hh ht
  · exact .started v rest hh hb (startCommand_move hstart)
  · exact .stored r v rest hh hb hfit ht

/-- Everything the machine's step can do. -/
theorem step_move {s t : State} (h : step s = .next t) : s.Move t := by
  cases hh : s.host with
  | nil =>
    rw [step_of_host_nil hh] at h
    exact .engine s.host (.inl hh) (engineStep_move h)
  | cons op rest =>
    rw [step_of_host_cons hh] at h
    cases op with
    | wr r v => exact hostWrite_move hh h
    | rd r =>
      cases h
      exact .read r rest hh rfl
    | wait =>
      rw [hostStep_wait] at h
      split at h
      next hended =>
        cases h
        exact .waited rest hh hended rfl
      next => exact .engine s.host (.inr (.inl ⟨rest, hh⟩)) (engineStep_move h)
    | fillEnc a bytes =>
      obtain ⟨hb, hfit, ht⟩ := bufferAccess_next h
      exact .filledEnc a bytes rest hb (of_decide_eq_true hfit) ht
    | fillInt i xs =>
      obtain ⟨hb, hfit, ht⟩ := bufferAccess_next h
      exact .filledInt i xs rest hb (of_decide_eq_true hfit) ht
    | dumpEnc a k | dumpInt i k =>
      obtain ⟨hb, -, ht⟩ := bufferAccess_next h
      exact .dumped _ rest hb ht
    | reset =>
      cases h
      exact .reset rest hh rfl
    | pass => exact .engine rest (.inr (.inr ⟨rest, hh⟩)) (engineStep_move h)

end Sys2Proof.Machine
end

section
/-! What a step leaves as it was: the operands are the host's (10_state.md section 2), RESULT and the error registers
change at the end of a command only (R28, R29), a command writes its own destination only (20_memory.md section 4), a
command that fails at once changes nothing else (60_exceptions.md section 3), and the SIMD guard stays false
(44_simd_decoder.md). -/

namespace Sys2Proof.Machine

/-! ## Errors of a command's first step -/

/-- Settles O36: of the moves of a first step only a failure stands in ERROR, and its entry writes those registers alone. -/
theorem startErrorsArePrecise : Obligations.StartErrorsArePrecise := by
  intro i s t hi h hp
  cases (exec_command_move hi h).2 with
  | finished r hr ht => cases ht; cases hp
  | failed k e a hk ha ht =>
    rw [ht, raise_of_ne hk]
    exact ⟨rfl, rfl⟩
  | encodes hcap ht => cases ht; cases hp
  | decodes st ph hph henough hcap ht =>
    cases ht
    obtain ⟨-, rfl⟩ | ⟨-, rfl⟩ := hph <;> cases hp

/-! ## The operands -/

/-- AW, CMD and the operand registers of `t` are those of `s`. -/
structure State.SameOperands (s t : State) : Prop where
  aw : t.aw = s.aw
  CMD : t.CMD = s.CMD
  N : t.N = s.N
  X : t.X = s.X
  ENC_LEN : t.ENC_LEN = s.ENC_LEN
  INT_LEN : t.INT_LEN = s.INT_LEN
  nWritten : t.nWritten = s.nWritten
  xWritten : t.xWritten = s.xWritten
  encLenWritten : t.encLenWritten = s.encLenWritten
  intLenWritten : t.intLenWritten = s.intLenWritten

theorem State.SameOperands.of_raise (k : ErrorKind) (e a : Nat) (s : State) : s.SameOperands (raise k e a s) := by
  rw [raise_eq]
  constructor <;> rfl

theorem State.EngineMove.sameOperands {s t : State} (h : s.EngineMove t) : s.SameOperands t := by
  cases h with
  | truncated _ _ _ _ ht =>
    rw [ht]
    exact { State.SameOperands.of_raise .truncated _ _ (s.withControl (s.encByte s.cc)) with }
  | idle _ ht | finished _ _ ht | encoded _ _ _ _ _ ht | switched _ _ ht | iterated _ _ _ _ ht | decoded _ _ _ _ _ ht =>
    rw [ht]
    constructor <;> rfl

theorem State.CommandMove.sameOperands {s t : State} (h : s.CommandMove t) : s.SameOperands t := by
  cases h with
  | failed _ _ _ _ _ ht =>
    rw [ht]
    exact .of_raise _ _ _ s
  | finished _ _ ht | encodes _ ht | decodes _ _ _ _ _ ht =>
    rw [ht]
    constructor <;> rfl

@[simp] theorem State.storeOperand_aw (r v : Nat) (s : State) : (s.storeOperand r v).aw = s.aw := by
  unfold State.storeOperand
  split_ifs <;> rfl

theorem hostRead_sameOperands (r : Nat) (s : State) : s.SameOperands (hostRead r s) := by
  obtain ⟨rs, d, heq⟩ := hostRead_eq r s
  rw [heq]
  constructor <;> rfl

/-- No move changes the parameter AW. -/
theorem State.Move.aw {s t : State} (h : s.Move t) : t.aw = s.aw := by
  cases h with
  | engine _ _ hmove => exact hmove.sameOperands.aw
  | started _ _ _ _ hmove => exact hmove.sameOperands.aw
  | stored r v rest _ _ _ ht => rw [ht, State.storeOperand_aw]; rfl
  | read r rest _ ht => rw [ht]; exact (hostRead_sameOperands r (s.withHost rest)).aw
  | waited _ _ _ ht | ignored _ _ _ _ ht | reset _ _ ht | filledEnc _ _ _ _ _ ht | filledInt _ _ _ _ _ ht
  | dumped _ _ _ ht => rw [ht]; rfl

/-- A move other than a host write and reset keeps the operands. -/
theorem State.Move.sameOperands {s t : State} (h : s.Move t) (hw : ∀ r v rest, s.host ≠ .wr r v :: rest)
    (hreset : ∀ rest, s.host ≠ .reset :: rest) : s.SameOperands t := by
  cases h with
  | engine _ _ hmove => exact { hmove.sameOperands with }
  | read r rest _ ht => rw [ht]; exact { hostRead_sameOperands r (s.withHost rest) with }
  | ignored _ _ _ hh | started _ _ hh | stored _ _ _ hh => exact absurd hh (hw _ _ _)
  | reset _ hh => exact absurd hh (hreset _)
  | waited _ _ _ ht | filledEnc _ _ _ _ _ ht | filledInt _ _ _ _ _ ht | dumped _ _ _ ht =>
    rw [ht]
    constructor <;> rfl

/-- Settles O49, by the moves of a step. -/
theorem operandsAreTheHosts : Obligations.OperandsAreTheHosts := by
  intro s t h
  refine ⟨(step_move h).aw, fun hw hreset => ?_⟩
  obtain ⟨-, hCMD, hN, hX, hE, hI, hn, hx, he, hi⟩ := (step_move h).sameOperands hw hreset
  exact ⟨hCMD, hN, hX, hE, hI, hn, hx, he, hi⟩

/-! ## RESULT and the error registers -/

/-- RESULT and the error registers of `t` are those of `s`. -/
def State.SameResults (s t : State) : Prop :=
  t.RESULT = s.RESULT ∧ t.ERR_EXPECTED = s.ERR_EXPECTED ∧ t.ERR_AVAILABLE = s.ERR_AVAILABLE

/-- `t` is the end of a command, which leaves RESULT 0 where it is an error. -/
def State.EndOfCommand (t : State) : Prop := t.ended = true ∧ (t.phase = .error → t.RESULT = 0)

theorem State.EndOfCommand.of_raise (k : ErrorKind) (e a : Nat) (s : State) : (raise k e a s).EndOfCommand := by
  rw [raise_eq]
  exact ⟨rfl, fun _ => rfl⟩

theorem State.EndOfCommand.of_finish (r : Nat) (s : State) : (s.finish r).EndOfCommand := ⟨rfl, nofun⟩

/-- Of a phase that is busy: the unit is busy. -/
theorem State.busy_of_phase {s : State} {p : Phase} (hp : s.phase = p) (h : p ∈ [.encRun, .simdBulk, .scalarTail]) :
    s.busy = true :=
  State.busy_iff.2 (hp ▸ h)

theorem State.busy_of_decoding {s : State} (hp : s.phase = .simdBulk ∨ s.phase = .scalarTail) : s.busy = true :=
  hp.elim (State.busy_of_phase · (by decide)) (State.busy_of_phase · (by decide))

/-- The two phases that have an end step are busy. -/
theorem State.busy_of_ending {s : State} (hp : s.phase = .encRun ∨ s.phase = .scalarTail) : s.busy = true :=
  hp.elim (State.busy_of_phase · (by decide)) (State.busy_of_phase · (by decide))

theorem State.EngineMove.results {s t : State} (h : s.EngineMove t) :
    s.SameResults t ∨ (t.EndOfCommand ∧ s.busy = true) := by
  cases h with
  | finished hp _ ht => exact .inr ⟨ht ▸ .of_finish s.dc s, State.busy_of_ending hp⟩
  | truncated hp _ _ _ ht => exact .inr ⟨ht ▸ .of_raise _ _ _ _, State.busy_of_phase hp (by decide)⟩
  | idle _ ht | encoded _ _ _ _ _ ht | switched _ _ ht | iterated _ _ _ _ ht | decoded _ _ _ _ _ ht =>
    rw [ht]
    exact .inl ⟨rfl, rfl, rfl⟩

theorem State.CommandMove.results {s t : State} (h : s.CommandMove t) : s.SameResults t ∨ t.EndOfCommand := by
  cases h with
  | finished r _ ht => exact .inr (ht ▸ ⟨rfl, nofun⟩)
  | failed _ _ _ _ _ ht => exact .inr (ht ▸ .of_raise _ _ _ _)
  | encodes _ ht | decodes _ _ _ _ _ ht =>
    rw [ht]
    exact .inl ⟨rfl, rfl, rfl⟩

theorem State.storeOperand_sameResults (r v : Nat) (s : State) : s.SameResults (s.storeOperand r v) := by
  unfold State.storeOperand
  split_ifs <;> exact ⟨rfl, rfl, rfl⟩

theorem hostRead_sameResults (r : Nat) (s : State) : s.SameResults (hostRead r s) := by
  obtain ⟨rs, d, heq⟩ := hostRead_eq r s
  rw [heq]
  exact ⟨rfl, rfl, rfl⟩

theorem State.Move.results {s t : State} (h : s.Move t) (hreset : ∀ rest, s.host ≠ .reset :: rest) :
    s.SameResults t ∨ (t.EndOfCommand ∧ (s.busy = true ∨ ∃ v rest, s.host = .wr 0 v :: rest)) := by
  cases h with
  | engine rest _ hmove => exact hmove.results.imp id fun ⟨hend, hb⟩ => ⟨hend, .inl hb⟩
  | started v rest hh _ hmove => exact hmove.results.imp id fun hend => ⟨hend, .inr ⟨v, rest, hh⟩⟩
  | stored r v rest _ _ _ ht => exact .inl (ht ▸ (s.withHost rest).storeOperand_sameResults r v)
  | read r rest _ ht => exact .inl (ht ▸ hostRead_sameResults r (s.withHost rest))
  | reset _ hh => exact absurd hh (hreset _)
  | waited _ _ _ ht | ignored _ _ _ _ ht | filledEnc _ _ _ _ _ ht | filledInt _ _ _ _ _ ht | dumped _ _ _ ht =>
    rw [ht]
    exact .inl ⟨rfl, rfl, rfl⟩

/-- Settles O50: a move that is not an end leaves the three registers alone. -/
theorem resultChangesOnlyAtTheEnd : Obligations.ResultChangesOnlyAtTheEnd := by
  intro s t h hreset hchanged
  obtain ⟨hr, he, ha⟩ | ⟨⟨hended, hzero⟩, hwhen⟩ := (step_move h).results hreset
  · exact (hchanged.elim (· hr) (·.elim (· he) (· ha))).elim
  · exact ⟨hended, hzero, hwhen⟩

/-! ## The destination -/

theorem State.EngineMove.destination {s t : State} (h : s.EngineMove t) :
    (s.phase = .encRun → t.INT = s.INT) ∧ (s.phase = .simdBulk ∨ s.phase = .scalarTail → t.ENC = s.ENC) := by
  cases h with
  | encoded hp _ _ _ _ ht => exact ⟨fun _ => ht ▸ rfl, by simp [hp]⟩
  | iterated hp _ _ _ ht | decoded hp _ _ _ _ ht | truncated hp _ _ _ ht => exact ⟨by simp [hp], fun _ => ht ▸ rfl⟩
  | idle _ ht | finished _ _ ht | switched _ _ ht => exact ⟨fun _ => ht ▸ rfl, fun _ => ht ▸ rfl⟩

/-- While busy, a move other than the engine's and reset touches no buffer. -/
theorem State.Move.engine_or_same {s t : State} (h : s.Move t) (hb : s.busy = true)
    (hreset : ∀ rest, s.host ≠ .reset :: rest) :
    (∃ rest, (s.withHost rest).EngineMove t) ∨
      ∃ rest rs d, t = { s.withHost rest with readouts := rs, draws := d } := by
  cases h with
  | engine rest _ hmove => exact .inl ⟨rest, hmove⟩
  | waited rest _ _ ht | ignored _ _ rest _ ht => exact .inr ⟨rest, s.readouts, s.draws, ht⟩
  | read r rest _ ht =>
    obtain ⟨rs, d, heq⟩ := hostRead_eq r (s.withHost rest)
    exact .inr ⟨rest, rs, d, ht.trans heq⟩
  | reset _ hh => exact absurd hh (hreset _)
  | started _ _ _ hidle | stored _ _ _ _ hidle | filledEnc _ _ _ hidle | filledInt _ _ _ hidle | dumped _ _ hidle =>
    simp [hb] at hidle

/-- Settles O51: the engine's moves write their own buffer, and every other move of a busy unit writes none. -/
theorem onlyTheDestinationIsWritten : Obligations.OnlyTheDestinationIsWritten := by
  intro s t h hreset
  by_cases hb : s.busy = true
  · obtain ⟨rest, hmove⟩ | ⟨rest, rs, d, rfl⟩ := (step_move h).engine_or_same hb hreset
    · exact hmove.destination
    · exact ⟨fun _ => rfl, fun _ => rfl⟩
  · rw [State.busy_iff] at hb
    refine ⟨fun hp => ?_, fun hp => ?_⟩
    · simp [hp] at hb
    · rcases hp with hp | hp <;> simp [hp] at hb

/-! ## The guard -/

/-- The guard reads `rem`, `dc` and ENC_LEN only, and stays false where `rem` falls and `dc` rises. -/
theorem guardHolds_eq_false_of_le {s t : State} (hg : guardHolds s = false) (hr : t.rem ≤ s.rem) (hd : s.dc ≤ t.dc)
    (hlen : t.ENC_LEN = s.ENC_LEN) : guardHolds t = false := by
  rw [← Bool.not_eq_true, guardHolds_iff] at hg ⊢
  omega

theorem State.EngineMove.guard_false {s t : State} (h : s.EngineMove t) (hp : s.phase = .simdBulk ∨ s.phase = .scalarTail)
    (hp' : t.phase = .simdBulk ∨ t.phase = .scalarTail) (hg : guardHolds s = false) : guardHolds t = false := by
  cases h with
  | idle _ ht => rwa [ht]
  | finished _ _ ht | truncated _ _ _ _ ht => rw [ht] at hp'; cases hp' <;> contradiction
  | encoded henc => simp [henc] at hp
  | switched _ _ ht => rwa [ht]
  | iterated _ hg' => simp [hg] at hg'
  | decoded _ _ _ _ _ ht =>
    rw [ht]
    exact guardHolds_eq_false_of_le hg (Nat.sub_le _ _) (Nat.le_add_right _ _) rfl

/-- Settles O27: a quad step lowers `rem` and raises `dc`, and no other move of a busy unit touches them. -/
theorem guardStaysFalse : Obligations.GuardStaysFalse := by
  intro s t h hreset hp hp' hg
  obtain ⟨rest, hmove⟩ | ⟨rest, rs, d, rfl⟩ := (step_move h).engine_or_same (State.busy_of_decoding hp) hreset
  · exact hmove.guard_false hp hp' hg
  · exact hg

end Sys2Proof.Machine
end

section
/-! The invariant of the machine (10_state.md section 7): it holds after reset, and every move keeps it. -/

namespace Sys2Proof.Machine

/-! ## States that are not busy -/

/-- While not busy the invariant says nothing of the cursors. -/
theorem State.Inv.of_not_busy {s : State} (hb : s.busy = false) (hw : s.WidthsOk) (henc : Memory.Ok s.aw s.ENC)
    (hint : Memory.Ok s.aw s.INT) (herr : s.errCode.isSome = true ↔ s.phase = .error) : s.Inv where
  widths := hw
  encMem := henc
  intMem := hint
  err_iff := herr
  cursors := fun h => by simp [hb] at h
  encoding := fun hp => by simp [State.busy, hp] at hb
  decoding := fun hp => by rcases hp with hp | hp <;> simp [State.busy, hp] at hb
  bulk := fun hp => by simp [State.busy, hp] at hb

theorem State.WidthsOk.reset {aw : Nat} (haw : 8 ≤ aw) : (State.resetWith aw).WidthsOk := by
  have hzero := Nat.two_pow_pos aw
  constructor <;> assumption

/-- Settles O52: after reset every register is 0 and the buffers list no cell. -/
theorem resetMeetsInvariant : Obligations.ResetMeetsInvariant :=
  fun aw haw => .of_not_busy rfl (.reset haw) (.nil aw) (.nil aw) ⟨nofun, nofun⟩

/-! ## The ends of a command -/

theorem maxCount_lt (aw : Nat) : maxCount aw < 2 ^ aw := Nat.sub_lt (Nat.two_pow_pos aw) Nat.one_pos

/-- The entry of an error keeps the invariant, whatever the cursors of the command it ends: what TRUNCATED loses of INT lies
below `n`, which the width bounds. -/
theorem State.Inv.raise_of_widths {s : State} (k : ErrorKind) (e : Nat) {a : Nat} (hw : s.WidthsOk)
    (henc : Memory.Ok s.aw s.ENC) (hint : Memory.Ok s.aw s.INT) (ha : a < 2 ^ s.aw) : (raise k e a s).Inv := by
  have hmax : min e (maxCount s.aw) < 2 ^ s.aw := (Nat.min_le_right _ _).trans_lt (maxCount_lt s.aw)
  have hlost : Memory.Ok s.aw (Memory.writeList s.INT 0 (drawnInts s.draws s.n)) :=
    hint.writeList (by rw [drawnInts_length, Nat.zero_add]; exact hw.n_lt.le)
  rw [raise_eq]
  refine .of_not_busy rfl { hw with RESULT_lt := Nat.two_pow_pos s.aw, ERR_EXPECTED_lt := hmax, ERR_AVAILABLE_lt := ha }
    henc ?_ ⟨fun _ => rfl, fun _ => rfl⟩
  show Memory.Ok s.aw (if k = .truncated then _ else s.INT)
  split
  · exact hlost
  · exact hint

theorem State.WidthsOk.finish {s : State} {r : Nat} (hw : s.WidthsOk) (hr : r < 2 ^ s.aw) : (s.finish r).WidthsOk :=
  { hw with RESULT_lt := hr, ERR_EXPECTED_lt := Nat.two_pow_pos s.aw, ERR_AVAILABLE_lt := Nat.two_pow_pos s.aw }

/-- While busy ERRCODE is NONE. -/
theorem State.Inv.errCode_of_busy {s : State} (h : s.Inv) (hb : s.busy = true) : s.errCode.isSome = false := by
  rw [← Bool.not_eq_true, h.err_iff]
  intro hp
  simp [State.busy, hp] at hb

/-! ## The start of a command -/

/-- The cursors as the start step sets them (20_memory.md R64). -/
theorem State.CursorsOk.latch {s : State} {count : Nat} (st : Strategy) (ph : Phase)
    (hfits : controlStreamLen count ≤ s.ENC_LEN) : (s.latch count st ph).CursorsOk where
  oc_eq := (Nat.zero_min count).symm
  rem_eq := rfl
  cc_le := Nat.zero_le _
  data_le := le_rfl
  dc_le := hfits

theorem State.WidthsOk.latch {s : State} (hw : s.WidthsOk) {count : Nat} (st : Strategy) (ph : Phase)
    (hcount : count < 2 ^ s.aw) : (s.latch count st ph).WidthsOk :=
  { hw with
    n_lt := hcount, cc_lt := Nat.two_pow_pos s.aw, dc_lt := (controlStreamLen_le count).trans_lt hcount,
    oc_lt := Nat.two_pow_pos s.aw, rem_lt := hcount }

theorem State.Inv.latch_encRun {s : State} (h : s.Inv) (hcap : maxEncodedLen s.INT_LEN ≤ s.ENC_LEN) :
    (s.latch s.INT_LEN s.strat .encRun).Inv where
  widths := h.widths.latch _ _ h.widths.INT_LEN_lt
  encMem := h.encMem
  intMem := h.intMem
  err_iff := ⟨nofun, nofun⟩
  cursors := fun _ => .latch _ _ ((Nat.le_add_right _ _).trans hcap)
  encoding := fun _ => ⟨rfl, hcap, rfl⟩
  decoding := fun hp => by simp at hp
  bulk := nofun

theorem State.Inv.latch_decode {s : State} (h : s.Inv) {st : Strategy} {ph : Phase}
    (hph : (st = .scalar ∧ ph = .scalarTail) ∨ (st = .simd ∧ ph = .simdBulk))
    (henough : controlStreamLen s.N + s.N ≤ s.ENC_LEN) (hcap : s.N ≤ s.INT_LEN) : (s.latch s.N st ph).Inv where
  widths := h.widths.latch _ _ h.widths.N_lt
  encMem := h.encMem
  intMem := h.intMem
  err_iff := ⟨nofun, by rcases hph with ⟨-, rfl⟩ | ⟨-, rfl⟩ <;> exact nofun⟩
  cursors := fun _ => .latch _ _ ((Nat.le_add_right _ _).trans henough)
  encoding := by rcases hph with ⟨-, rfl⟩ | ⟨-, rfl⟩ <;> exact nofun
  decoding := fun _ => ⟨hcap, henough, rfl⟩
  bulk := by rcases hph with ⟨-, rfl⟩ | ⟨rfl, -⟩ <;> simp

theorem State.CommandMove.keeps_inv {s t : State} (hmove : s.CommandMove t) (h : s.Inv) : t.Inv := by
  cases hmove with
  | finished r hr ht =>
    rw [ht]
    exact .of_not_busy rfl { h.widths.finish (hr h.widths) with } h.encMem h.intMem ⟨nofun, nofun⟩
  | failed k e a hk ha ht =>
    rw [ht]
    exact .raise_of_widths k e h.widths h.encMem h.intMem (ha h.widths)
  | encodes hcap ht => exact ht ▸ h.latch_encRun hcap
  | decodes st ph hph henough hcap ht => exact ht ▸ h.latch_decode hph henough hcap

/-! ## The moves of the engine -/

/-- The invariant's place for `oc` gives the size of the quad to come: that of quad `cc` of the command. -/
theorem State.CursorsOk.quadSize_rem {s : State} (hc : s.CursorsOk) : quadSize (s.n - 4 * s.cc) = quadSize s.rem := by
  obtain ⟨hoc, hrem, -, -, -⟩ := hc
  unfold quadSize
  omega

/-- A quad step over the quad to come, with `len` payload bytes that fit ENC, moves the cursors to their next places. -/
theorem State.CursorsOk.advance {s : State} (hc : s.CursorsOk) (hr : 0 < s.rem) (c : Byte) {len : Nat}
    (hfits : s.dc + len ≤ s.ENC_LEN) : (s.advance c len (quadSize s.rem)).CursorsOk := by
  obtain ⟨hoc, hrem, hcc, hdata, hdc⟩ := hc
  have hsize : quadSize s.rem = min 4 s.rem := rfl
  constructor <;> simp only [State.advance, controlStreamLen_le_iff] <;> unfold controlStreamLen at * <;> omega

/-- The working registers keep their widths where the cursors stand in their places. -/
theorem State.WidthsOk.advance {s : State} (hw : s.WidthsOk) {c : Byte} {len r : Nat}
    (hc : (s.advance c len r).CursorsOk) : (s.advance c len r).WidthsOk := by
  obtain ⟨hoc, hrem, hcc, hdata, hdc⟩ := hc
  have hn : (s.advance c len r).n < 2 ^ s.aw := hw.n_lt
  have hlen : (s.advance c len r).ENC_LEN < 2 ^ s.aw := hw.ENC_LEN_lt
  exact { hw with
    cc_lt := (hcc.trans hdata).trans_lt (hdc.trans_lt hlen)
    dc_lt := hdc.trans_lt hlen
    oc_lt := hoc.le.trans_lt ((Nat.min_le_right _ _).trans_lt hn)
    rem_lt := hrem.le.trans_lt ((Nat.sub_le _ _).trans_lt hn) }

/-- What the encoder has written grows by the payloads of the integers it takes next. -/
theorem State.encodedBytes_add (s : State) (k r : Nat) :
    s.encodedBytes (k + r) = s.encodedBytes k + (payloads (s.intWords k r)).length := by
  rw [payloads_length, State.encodedBytes, List.range_add, List.map_append, List.sum_append]
  simp [State.encodedBytes, State.intWords, Function.comp_def]

/-- What the decoder has consumed grows by the payload of the next quad. -/
theorem State.decodedBytes_succ (s : State) (k : Nat) :
    s.decodedBytes (k + 1) = s.decodedBytes k + quadLen (s.encByte k) (quadSize (s.n - 4 * k)) :=
  List.sum_range_succ _ _

/-- The memory ENC stays canonical: what the quad step writes lies below ENC_LEN. -/
theorem Memory.Ok.afterEncodeQuad {s : State} {xs : List Word} (h : Memory.Ok s.aw s.ENC) (hw : s.WidthsOk)
    (hcc : s.encHas s.cc 1) (hfits : s.encHas s.dc (payloads xs).length) : Memory.Ok s.aw (s.afterEncodeQuad xs).ENC :=
  (h.writeList (hcc.trans hw.ENC_LEN_lt.le)).writeList (hfits.trans hw.ENC_LEN_lt.le)

theorem State.CursorsOk.afterEncodeQuad {s : State} (hc : s.CursorsOk) (hr : 0 < s.rem)
    (hfits : s.encHas s.dc (payloads (s.intWords s.oc (quadSize s.rem))).length) :
    (s.afterEncodeQuad (s.intWords s.oc (quadSize s.rem))).CursorsOk := by
  rw [State.afterEncodeQuad, State.intWords_length]
  exact { hc.advance hr (quadControl (s.intWords s.oc (quadSize s.rem))) hfits with }

theorem State.EncodingOk.afterEncodeQuad {s : State} (h : s.EncodingOk) :
    (s.afterEncodeQuad (s.intWords s.oc (quadSize s.rem))).EncodingOk := by
  have hsum := s.encodedBytes_add s.oc (quadSize s.rem)
  have hdc := h.dc_eq
  refine ⟨h.count, h.fits, ?_⟩
  rw [State.afterEncodeQuad, State.intWords_length]
  show s.dc + (payloads (s.intWords s.oc (quadSize s.rem))).length =
    controlStreamLen s.n + s.encodedBytes (s.oc + quadSize s.rem)
  omega

theorem State.WidthsOk.afterEncodeQuad {s : State} (hw : s.WidthsOk) (hc : s.CursorsOk) (hr : 0 < s.rem)
    (hfits : s.encHas s.dc (payloads (s.intWords s.oc (quadSize s.rem))).length) :
    (s.afterEncodeQuad (s.intWords s.oc (quadSize s.rem))).WidthsOk := by
  rw [State.afterEncodeQuad, State.intWords_length]
  exact { hw.advance (hc.advance hr (quadControl (s.intWords s.oc (quadSize s.rem))) hfits) with }

theorem State.Inv.afterEncodeQuad {s : State} (h : s.Inv) (hp : s.phase = .encRun) (hr : 0 < s.rem)
    (hcc : s.encHas s.cc 1) (hfits : s.encHas s.dc (payloads (s.intWords s.oc (quadSize s.rem))).length) :
    (s.afterEncodeQuad (s.intWords s.oc (quadSize s.rem))).Inv := by
  have hc : s.CursorsOk := h.cursors (State.busy_of_phase hp (by decide))
  exact {
    widths := h.widths.afterEncodeQuad hc hr hfits
    encMem := h.encMem.afterEncodeQuad h.widths hcc hfits
    intMem := h.intMem
    err_iff := h.err_iff
    cursors := fun _ => hc.afterEncodeQuad hr hfits
    encoding := fun _ => (h.encoding hp).afterEncodeQuad
    decoding := fun hd => by simp [State.afterEncodeQuad, State.advance, hp] at hd
    bulk := fun hd => by simp [State.afterEncodeQuad, State.advance, hp] at hd }

/-- A decoded quad keeps the invariant, in either phase and with any vector registers: what it stores lies
below `n`. -/
theorem State.Inv.after_decoded_quad {s : State} (h : s.Inv) (hp : s.phase = .simdBulk ∨ s.phase = .scalarTail)
    (hr : 0 < s.rem) {r : Nat} (hsize : r = quadSize s.rem)
    (hfits : s.encHas s.dc (quadLen (s.encByte s.cc) r)) (m w v : V128) {xs : List Word} (hxs : xs.length = r) :
    (((s.advance (s.encByte s.cc) (quadLen (s.encByte s.cc) r) r).withVectors m w v).withINT
      (Memory.writeList s.INT s.oc xs)).Inv := by
  subst hsize
  have hc := h.cursors (State.busy_of_decoding hp)
  have hc' := hc.advance hr (s.encByte s.cc) hfits
  obtain ⟨hroom, henough, hdc⟩ := h.decoding hp
  have hsum := s.decodedBytes_succ s.cc
  rw [hc.quadSize_rem] at hsum
  have hin := hc.oc_add_quadSize_le
  have hn := h.widths.n_lt
  exact {
    widths := { h.widths.advance hc' with }
    encMem := h.encMem
    intMem := h.intMem.writeList (by omega)
    err_iff := h.err_iff
    cursors := fun _ => { hc' with }
    encoding := fun he => by simp [State.advance] at he; simp [he] at hp
    decoding := fun _ => ⟨hroom, henough, by
      show s.dc + quadLen (s.encByte s.cc) (quadSize s.rem) = controlStreamLen s.n + s.decodedBytes (s.cc + 1)
      omega⟩
    bulk := h.bulk }

theorem State.EngineMove.keeps_inv {s t : State} (hmove : s.EngineMove t) (h : s.Inv) : t.Inv := by
  cases hmove with
  | idle _ ht => rwa [ht]
  | finished hp _ ht =>
    have hdc : s.dc < 2 ^ s.aw := h.widths.dc_lt
    have herr := h.errCode_of_busy (State.busy_of_ending hp)
    rw [ht]
    exact .of_not_busy rfl (h.widths.finish hdc) h.encMem h.intMem (by simp [herr])
  | encoded hp hr _ hcc hfits ht => exact ht ▸ h.afterEncodeQuad hp hr hcc hfits
  | switched hp _ ht =>
    have hb : s.busy = true := State.busy_of_phase hp (by decide)
    have herr := h.errCode_of_busy hb
    rw [ht]
    exact {
      widths := { h.widths with }
      encMem := h.encMem
      intMem := h.intMem
      err_iff := by simp [herr]
      cursors := fun _ => { h.cursors hb with }
      encoding := nofun
      decoding := fun _ => { h.decoding (.inl hp) with }
      bulk := nofun }
  | iterated hp hg _ _ ht =>
    obtain ⟨hrem, hwindow⟩ := guardHolds_iff.1 hg
    have hlen := quadLen_le (s.encByte s.cc) 4
    have hfits : s.encHas s.dc (quadLen (s.encByte s.cc) 4) := by unfold State.encHas; omega
    rw [ht, State.afterSimdQuad, ptab_eq_quadLen]
    exact h.after_decoded_quad (.inl hp) (by omega) (Nat.min_eq_left hrem).symm hfits _ _ _ (vecLanes_length _)
  | decoded hp hr _ hfits _ ht =>
    rw [ht]
    exact h.after_decoded_quad (.inr hp) hr rfl hfits s.M s.W s.V (quadInts_length _ _ _ _)
  | truncated _ _ _ _ ht =>
    rw [ht]
    exact .raise_of_widths _ _ { h.widths with } h.encMem h.intMem h.widths.ENC_LEN_lt

/-! ## The moves of the host -/

/-- An operand register takes only values that fit it. -/
theorem State.WidthsOk.storeOperand {s : State} (hw : s.WidthsOk) {r v : Nat}
    (hfit : (HostOp.wr r v).wellFormed s.aw = true) : (s.storeOperand r v).WidthsOk := by
  simp only [HostOp.wellFormed, writableWidth] at hfit
  unfold State.storeOperand
  split_ifs with h2 h3 h4 h5
  · exact { hw with N_lt := by simpa [h2] using hfit }
  · exact { hw with }
  · exact { hw with ENC_LEN_lt := by simpa [h4] using hfit }
  · exact { hw with INT_LEN_lt := by simpa [h5] using hfit }
  · exact hw

@[simp] theorem State.storeOperand_ENC (r v : Nat) (s : State) : (s.storeOperand r v).ENC = s.ENC := by
  unfold State.storeOperand
  split_ifs <;> rfl

@[simp] theorem State.storeOperand_INT (r v : Nat) (s : State) : (s.storeOperand r v).INT = s.INT := by
  unfold State.storeOperand
  split_ifs <;> rfl

theorem State.Inv.storeOperand {s : State} (h : s.Inv) (hb : s.busy = false) {r v : Nat}
    (hfit : (HostOp.wr r v).wellFormed s.aw = true) : (s.storeOperand r v).Inv := by
  refine .of_not_busy ?_ (h.widths.storeOperand hfit) ?_ ?_ ?_
  · rwa [State.busy, State.storeOperand_phase]
  · simpa using h.encMem
  · simpa using h.intMem
  · simpa using h.err_iff

/-- A host read changes what the invariant does not speak of. -/
theorem State.Inv.hostRead {s : State} (h : s.Inv) (r : Nat) : (hostRead r s).Inv := by
  obtain ⟨rs, d, heq⟩ := hostRead_eq r s
  rw [heq]
  exact {
    widths := { h.widths with }
    encMem := h.encMem
    intMem := h.intMem
    err_iff := h.err_iff
    cursors := fun hb => { h.cursors hb with }
    encoding := fun hp => { h.encoding hp with }
    decoding := fun hp => { h.decoding hp with }
    bulk := h.bulk }

/-- What reset loses of the destination of a running encode lies below ENC_LEN (70_reset_and_hazards.md R211). -/
theorem State.Inv.loseBytes_ok {s : State} (h : s.Inv) (hp : s.phase = .encRun) : Memory.Ok s.aw s.loseBytes.ENC := by
  have hroom := (h.encoding hp).fits
  have hlen := h.widths.ENC_LEN_lt
  exact h.encMem.writeList (by rw [drawnBytes_length]; omega)

/-- What reset loses of the destination of a running decode lies below `n`. -/
theorem State.Inv.loseInts_ok {s : State} (h : s.Inv) : Memory.Ok s.aw s.loseInts.INT :=
  h.intMem.writeList (by rw [drawnInts_length, Nat.zero_add]; exact h.widths.n_lt.le)

theorem State.Inv.resetUnit {s : State} (h : s.Inv) : (resetUnit s).Inv := by
  have hw : (State.resetWith s.aw).WidthsOk := .reset h.widths.aw_ge
  unfold Machine.resetUnit
  cases hp : s.phase with
  | encRun => exact .of_not_busy rfl { hw with } (h.loseBytes_ok hp) h.intMem ⟨nofun, nofun⟩
  | simdBulk | scalarTail => exact .of_not_busy rfl { hw with } h.encMem h.loseInts_ok ⟨nofun, nofun⟩
  | idle | done | error => exact .of_not_busy rfl { hw with } h.encMem h.intMem ⟨nofun, nofun⟩

theorem State.Inv.withCMD {s : State} (h : s.Inv) (hb : s.busy = false) (v : Byte) : (s.withCMD v).Inv :=
  .of_not_busy hb { h.widths with } h.encMem h.intMem h.err_iff

theorem State.Move.keeps_inv {s t : State} (hmove : s.Move t) (h : s.Inv) : t.Inv := by
  cases hmove with
  | engine rest _ hmove => exact hmove.keeps_inv (h.withHost rest)
  | waited rest _ _ ht | ignored _ _ rest _ ht => exact ht ▸ h.withHost rest
  | started v rest _ hb hmove => exact hmove.keeps_inv ((h.withHost rest).withCMD hb _)
  | stored r v rest _ hb hfit ht => exact ht ▸ (h.withHost rest).storeOperand hb hfit
  | read r rest _ ht => exact ht ▸ (h.withHost rest).hostRead r
  | reset rest _ ht => exact ht ▸ (h.withHost rest).resetUnit
  | filledEnc a bytes rest hb hfit ht =>
    rw [ht]
    exact .of_not_busy hb { h.widths with } (h.encMem.writeList hfit) h.intMem h.err_iff
  | filledInt i xs rest hb hfit ht =>
    rw [ht]
    exact .of_not_busy hb { h.widths with } h.encMem (h.intMem.writeList hfit) h.err_iff
  | dumped r rest hb ht =>
    rw [ht]
    exact .of_not_busy hb { h.widths with } h.encMem h.intMem h.err_iff

/-- Settles O53: the moves of the engine, of a command's start and of the host each keep the invariant. -/
theorem stepKeepsInvariant : Obligations.StepKeepsInvariant :=
  fun _ _ h hstep => (step_move hstep).keeps_inv h

end Sys2Proof.Machine
end

section
/-! The engine's turn (45_driver.md R162, R164): under WAIT and `pass` the step is the engine's, it is never refused,
under the invariant it never stops, and it brings every command to its end. -/

namespace Sys2Proof.Machine

/-! ## The engine does not read the host's list -/

/-- The answer with the next state, if there is one, changed by `f`. -/
def mapNext (f : State → State) : Result → Result
  | .next t => .next (f t)
  | .fault r => .fault r
  | .refused r => .refused r

theorem encodeStep_withHost (rest : List HostOp) (s : State) :
    encodeStep (s.withHost rest) = mapNext (State.withHost · rest) (encodeStep s) := by
  unfold encodeStep encodeQuad
  simp only [apply_ite (mapNext _)]
  rfl

theorem scalarQuad_withHost (c : Byte) (rest : List HostOp) (s : State) :
    scalarQuad c (s.withHost rest) = mapNext (State.withHost · rest) (scalarQuad c s) := by
  unfold scalarQuad
  simp only [apply_ite (mapNext _)]
  rfl

theorem simdQuad_withHost (c : Byte) (rest : List HostOp) (s : State) :
    simdQuad c (s.withHost rest) = mapNext (State.withHost · rest) (simdQuad c s) := by
  unfold simdQuad
  simp only [apply_ite (mapNext _)]
  rfl

theorem execQuad_withHost (b0 b1 b2 b3 : BitVec 2) (rest : List HostOp) (s : State) :
    execQuad b0 b1 b2 b3 (s.withHost rest) = mapNext (State.withHost · rest) (execQuad b0 b1 b2 b3 s) := by
  unfold execQuad
  simp only [apply_ite (mapNext _), ← scalarQuad_withHost, ← simdQuad_withHost]
  rfl

theorem fetchQuad_withHost (rest : List HostOp) (s : State) :
    fetchQuad exec (s.withHost rest) = mapNext (State.withHost · rest) (fetchQuad exec s) := by
  unfold fetchQuad decodeCtrl exec
  simp only [apply_ite (mapNext _), ← execQuad_withHost]
  rfl

theorem engineStep_withHost (rest : List HostOp) (s : State) :
    engineStep exec (s.withHost rest) = mapNext (State.withHost · rest) (engineStep exec s) := by
  unfold engineStep
  rw [State.withHost_phase]
  cases s.phase with
  | encRun => exact encodeStep_withHost rest s
  | simdBulk =>
    simp only [bulkStep, apply_ite (mapNext _), ← fetchQuad_withHost]
    rfl
  | scalarTail =>
    simp only [tailStep, apply_ite (mapNext _), ← fetchQuad_withHost]
    rfl
  | idle | done | error => rfl

/-! ## The engine is never refused -/

theorem encodeQuad_ne_refused {s : State} {r : Refusal} : encodeQuad s ≠ .refused r := by
  unfold encodeQuad
  simp only
  split_ifs <;> exact nofun

theorem scalarQuad_ne_refused {c : Byte} {s : State} {r : Refusal} : scalarQuad c s ≠ .refused r := by
  unfold scalarQuad
  simp only
  split_ifs <;> exact nofun

theorem simdQuad_ne_refused {c : Byte} {s : State} {r : Refusal} : simdQuad c s ≠ .refused r := by
  unfold simdQuad
  simp only
  split_ifs <;> exact nofun

/-- Where a quad step is due, a control byte runs as the quad step of the phase. -/
theorem exec_decodeCtrl_of_due {s : State} (hdue : quadDue s = true) (c : Byte) :
    exec (decodeCtrl c) s = if s.phase = .simdBulk then simdQuad c s else scalarQuad c s := by
  show execQuad _ _ _ _ s = _
  rw [execQuad, if_pos hdue, ctrlByte_ctrlFields]

theorem fetchQuad_ne_refused {s : State} {r : Refusal} (hdue : quadDue s = true) : fetchQuad exec s ≠ .refused r := by
  unfold fetchQuad
  split
  · exact nofun
  · rw [exec_decodeCtrl_of_due hdue]
    split
    · exact simdQuad_ne_refused
    · exact scalarQuad_ne_refused

theorem engineStep_ne_refused {s : State} {r : Refusal} : engineStep exec s ≠ .refused r := by
  unfold engineStep
  cases hp : s.phase with
  | encRun =>
    show encodeStep s ≠ _
    unfold encodeStep
    split_ifs
    · exact nofun
    · exact encodeQuad_ne_refused
  | simdBulk =>
    show bulkStep exec s ≠ _
    unfold bulkStep
    split_ifs with hg
    · exact fetchQuad_ne_refused (by simp [quadDue, hp, hg])
    · exact nofun
  | scalarTail =>
    show tailStep exec s ≠ _
    unfold tailStep
    split_ifs with hr
    · exact nofun
    · exact fetchQuad_ne_refused (by simp [quadDue, hp]; omega)
  | idle | done | error => exact nofun

/-! ## WAIT and `pass` -/

theorem State.not_ended_of_busy {s : State} (hb : s.busy = true) : s.ended = false := by
  rw [← Bool.not_eq_true]
  intro he
  simp [s.not_busy_of_ended he] at hb

@[simp] theorem State.withHost_busy (s : State) (rest : List HostOp) : (s.withHost rest).busy = s.busy := rfl

@[simp] theorem State.withHost_ended (s : State) (rest : List HostOp) : (s.withHost rest).ended = s.ended := rfl

theorem step_of_wait {s : State} {rest : List HostOp} (hh : s.host = .wait :: rest) (he : s.ended = false) :
    step s = engineStep exec s := by
  rw [step_of_host_cons hh, hostStep_wait, if_neg (by simp [he])]

theorem step_of_wait_ended {s : State} {rest : List HostOp} (hh : s.host = .wait :: rest) (he : s.ended = true) :
    step s = .next (s.withHost rest) := by
  rw [step_of_host_cons hh, hostStep_wait, if_pos (by simp [he])]

theorem step_of_pass {s : State} {rest : List HostOp} (hh : s.host = .pass :: rest) :
    step s = engineStep exec (s.withHost rest) :=
  step_of_host_cons hh

/-- The engine's step with the host's list put back is the step with no action pending, the list put back after it. -/
theorem engineStep_of_step_withHost_nil (s : State) (rest : List HostOp) :
    engineStep exec (s.withHost rest) = mapNext (State.withHost · rest) (step (s.withHost [])) := by
  rw [step_of_host_nil rfl, ← engineStep_withHost]
  rfl

/-- Settles O59: the engine neither reads the host's list nor is refused, and WAIT leaves the step to it until the end. -/
theorem waitAndPassRunTheEngine : Obligations.WaitAndPassRunTheEngine := by
  intro s rest
  refine ⟨fun r => ?_, fun hb hh => ?_, fun hh => ?_, fun hp hh => ?_, fun hp hh => ?_⟩
  · rw [step_of_host_nil rfl]
    exact engineStep_ne_refused
  · have hself : s = s.withHost (.wait :: rest) := by rw [← hh]; rfl
    have hstep : step s = mapNext (State.withHost · (.wait :: rest)) (step (s.withHost [])) := by
      rw [step_of_wait hh (State.not_ended_of_busy hb), ← engineStep_of_step_withHost_nil, ← hself]
    exact ⟨fun t ht => by rw [hstep, ht]; rfl, fun f hf => by rw [hstep, hf]; rfl⟩
  · have hstep : step s = mapNext (State.withHost · rest) (step (s.withHost [])) := by
      rw [step_of_pass hh, engineStep_of_step_withHost_nil]
    exact ⟨fun t ht => by rw [hstep, ht]; rfl, fun f hf => by rw [hstep, hf]; rfl⟩
  · exact step_of_wait_ended hh (State.ended_iff.2 (by rcases hp with hp | hp <;> simp [hp]))
  · rw [step_of_wait hh (by simp [State.ended, hp])]
    unfold engineStep
    rw [hp]

/-! ## What the engine's turn runs -/

/-- Settles O46: where a quad step is due the engine runs the control byte at `cc`, whoever leaves it the step. -/
theorem stepRunsTheControlByte : Obligations.StepRunsTheControlByte := by
  intro s hdue hcc
  have hengine : engineStep exec s = exec (decodeCtrl (s.encByte s.cc)) s := by
    rcases quadDue_cases hdue with ⟨hp, hg⟩ | ⟨hp, hr⟩
    · rw [engineStep_of_guard hp hg, fetchQuad_of_fits hcc]
    · exact engineStep_of_scalarTail hp hr hcc
  refine ⟨fun hh => ?_, fun rest hh => ?_, fun rest hh => ?_⟩
  · rw [step_of_host_nil hh, hengine]
  · rw [step_of_wait hh (State.not_ended_of_busy (busy_of_quadDue hdue)), hengine]
  · rw [step_of_pass hh, engineStep_withHost, hengine]
    exact (execQuad_withHost _ _ _ _ rest s).symm

/-- With nothing left the engine's step is the end step, in ENC_RUN (R125) as in SCALAR_TAIL (R135). -/
theorem engineStep_of_rem_zero {run : Instr → State → Result} {s : State}
    (hp : s.phase = .encRun ∨ s.phase = .scalarTail) (hr : s.rem = 0) : engineStep run s = .next (s.finish s.dc) := by
  unfold engineStep
  rcases hp with hp | hp
  · rw [hp]
    exact if_pos hr
  · rw [hp]
    exact if_pos hr

/-- Settles O19: the end step is the record update of the statement. -/
theorem endStep : Obligations.EndStep := by
  intro s hh hp hr
  rw [step_of_host_nil hh, engineStep_of_rem_zero hp hr]
  rfl

/-- In IDLE, DONE and ERROR the engine does nothing (60_exceptions.md R197). -/
theorem engineStep_of_not_busy {run : Instr → State → Result} {s : State} (hb : s.busy = false) :
    engineStep run s = .next s := by
  unfold engineStep
  cases hp : s.phase with
  | encRun | simdBulk | scalarTail => simp [State.busy, hp] at hb
  | idle | done | error => rfl

/-- Settles O48: the step is the engine's, which does nothing while not busy. -/
theorem idleEngineDoesNothing : Obligations.IdleEngineDoesNothing := by
  intro s hh hb
  rw [step_of_host_nil hh, engineStep_of_not_busy hb]

/-! ## Every command ends -/

/-- Settles O55: of the three answers the invariant excludes a fault and the engine a refusal. -/
theorem engineNeverStops : Obligations.EngineNeverStops := by
  intro s h hh
  cases hstep : step s with
  | next t => exact ⟨t, rfl⟩
  | fault f => exact absurd hstep (noAccessLeavesItsBuffer s f h)
  | refused r => exact absurd (step_of_host_nil hh ▸ hstep) engineStep_ne_refused

theorem core_run_succ {M : Host.Core} {s t : M.State} (h : M.step s = .next t) (k : Nat) :
    M.run (k + 1) s = M.run k t := by
  rw [Host.Core.run, h]

theorem core_run_succ_next {M : Host.Core} {k : Nat} {s t : M.State} (h : M.run (k + 1) s = .next t) :
    ∃ u, M.step s = .next u := by
  rw [Host.Core.run] at h
  split at h
  · exact ⟨_, ‹_›⟩
  all_goals cases h

/-- One step, then the others. -/
theorem runSteps_succ {s t : State} (h : step s = .next t) (k : Nat) : runSteps (k + 1) s = runSteps k t :=
  core_run_succ (M := Sys2Proof.core) h k

/-- A run that answers a state has answered one after its first step. -/
theorem runSteps_succ_next {k : Nat} {s t : State} (h : runSteps (k + 1) s = .next t) : ∃ u, step s = .next u :=
  core_run_succ_next (M := Sys2Proof.core) h

/-- A run that answers a state goes on from it. -/
theorem runSteps_add {a : Nat} {s t : State} (h : runSteps a s = .next t) (b : Nat) :
    runSteps (a + b) s = runSteps b t := by
  induction a generalizing s with
  | zero =>
    cases h
    rw [Nat.zero_add]
  | succ a ih =>
    obtain ⟨u, hu⟩ := runSteps_succ_next h
    rw [Nat.succ_add, runSteps_succ hu]
    exact ih (runSteps_succ hu a ▸ h)

/-- With no action pending and no command running, any number of steps changes nothing (log 9). -/
theorem runSteps_of_not_busy {s : State} (hh : s.host = []) (hb : s.busy = false) (k : Nat) : runSteps k s = .next s := by
  induction k with
  | zero => rfl
  | succ k ih => rw [runSteps_succ (idleEngineDoesNothing s hh hb), ih]

/-- A bound on the steps of a busy engine: the control bytes left, the end step and, in SIMD_BULK, the switch step. -/
def State.stepsLeft (s : State) : Nat :=
  controlStreamLen s.n - s.cc + if s.phase = .simdBulk then 2 else 1

theorem State.stepsLeft_pos (s : State) : 0 < s.stepsLeft := by
  unfold State.stepsLeft
  split <;> omega

/-- With integers left there is a control byte left. -/
theorem State.CursorsOk.cc_lt {s : State} (hc : s.CursorsOk) (hr : 0 < s.rem) : s.cc < controlStreamLen s.n := by
  obtain ⟨hoc, hrem, -, -, -⟩ := hc
  unfold controlStreamLen
  omega

/-- A quad step uses up a control byte of the command. -/
theorem State.stepsLeft_lt_of_quad {s t : State} (hc : s.CursorsOk) (hr : 0 < s.rem) (hn : t.n = s.n)
    (hcc : t.cc = s.cc + 1) (hp : t.phase = s.phase) : t.stepsLeft < s.stepsLeft := by
  have hlt := hc.cc_lt hr
  unfold State.stepsLeft
  rw [hn, hcc, hp]
  omega

/-- Every move of a busy engine ends the command or leaves fewer steps, and none touches the host's list. -/
theorem State.EngineMove.progress {s t : State} (hmove : s.EngineMove t) (hb : s.busy = true) (hc : s.CursorsOk) :
    t.host = s.host ∧ (t.ended = true ∨ (t.busy = true ∧ t.stepsLeft < s.stepsLeft)) := by
  cases hmove with
  | idle hidle => simp [hb] at hidle
  | finished _ _ ht | truncated _ _ _ _ ht =>
    rw [ht]
    exact ⟨rfl, .inl rfl⟩
  | encoded _ hr _ _ _ ht | decoded _ hr _ _ _ ht =>
    rw [ht]
    exact ⟨rfl, .inr ⟨hb, State.stepsLeft_lt_of_quad hc hr rfl rfl rfl⟩⟩
  | iterated _ hg _ _ ht =>
    have hr : 0 < s.rem := by have := (guardHolds_iff.1 hg).1; omega
    rw [ht]
    exact ⟨rfl, .inr ⟨hb, State.stepsLeft_lt_of_quad hc hr rfl rfl rfl⟩⟩
  | switched hp _ ht =>
    rw [ht]
    exact ⟨rfl, .inr ⟨rfl, by simp [State.stepsLeft, hp]⟩⟩

/-- As many steps as the bound says bring a busy engine to the end of its command. -/
theorem runSteps_ends {k : Nat} {s : State} (h : s.Inv) (hh : s.host = []) (hb : s.busy = true) (hk : s.stepsLeft ≤ k) :
    ∃ t, runSteps k s = .next t ∧ t.ended = true := by
  induction k generalizing s with
  | zero => exact absurd hk s.stepsLeft_pos.not_ge
  | succ k ih =>
    obtain ⟨u, hu⟩ := engineNeverStops s h hh
    rw [runSteps_succ hu]
    obtain ⟨hhost, hended | ⟨hbusy, hless⟩⟩ := (engineStep_move (step_of_host_nil hh ▸ hu)).progress hb (h.cursors hb)
    · exact ⟨u, runSteps_of_not_busy (hhost.trans hh) (u.not_busy_of_ended hended) k, hended⟩
    · exact ih (stepKeepsInvariant s u h hu) (hhost.trans hh) hbusy (by omega)

/-- Settles O56: the bound of the statement is at least that on the steps left, which every step of the engine lowers. -/
theorem everyCommandEnds : Obligations.EveryCommandEnds := by
  intro s h hh hb
  refine runSteps_ends h hh hb ?_
  unfold State.stepsLeft
  split <;> omega

end Sys2Proof.Machine
end

section
/-! The byte shuffle and the facts about its tables (41_shuffle_table.md sections 1 and 2): the bytes and lanes of a
shuffled vector, and the rows of MTAB as runs of consecutive source bytes. -/

namespace Sys2Proof.Machine

/-! ## The bytes of a shuffled vector -/

/-- Settles O12: byte `k` of the shuffle as R116 builds it, the low four bits being the remainder by 16. -/
theorem shuffleSelectsBytes : Obligations.ShuffleSelectsBytes := by
  intro w m k hk
  rw [shuf, vecByte_vecOf _ hk, BitVec.extractLsb'_toNat, Nat.shiftRight_zero]

/-- The bytes of integer `i` lie among those of the first `r` integers, `r` being past `i`. -/
theorem quadLen_add_ctrlLen_le (c : Byte) {i r : Nat} (hi : i < r) : quadLen c i + ctrlLen c i ≤ quadLen c r :=
  monotone_nat_of_le_succ (f := quadLen c) (fun _ => Nat.le_add_right _ _) hi

theorem quadLen_add_ctrlLen_le_ptab (c : Byte) {i : Nat} (hi : i < 4) : quadLen c i + ctrlLen c i ≤ ptab c :=
  ptab_eq_quadLen c ▸ quadLen_add_ctrlLen_le c hi

theorem ptab_le (c : Byte) : ptab c ≤ 16 := ptab_eq_quadLen c ▸ quadLen_le c 4

/-- A source byte of the mask is its own number, below 16. -/
theorem maskByte_toNat (c : Byte) {i j : Nat} (hi : i < 4) (hj : j < ctrlLen c i) :
    (BitVec.ofNat 8 (quadLen c i + j)).toNat = quadLen c i + j ∧ quadLen c i + j < 16 := by
  have hlen := quadLen_add_ctrlLen_le_ptab c hi
  have hptab := ptab_le c
  exact ⟨BitVec.toNat_ofNat .. ▸ Nat.mod_eq_of_lt (by omega), by omega⟩

/-- Byte `4*i + j` of a vector shuffled by `MTAB[c]`: byte `j` of integer `i`, or zero past its length. -/
theorem vecByte_shuf_mtab (w : V128) (c : Byte) {i j : Nat} (hi : i < 4) (hj : j < 4) :
    vecByte (shuf w (mtab c)) (4 * i + j) = if j < ctrlLen c i then vecByte w (quadLen c i + j) else 0 := by
  rw [shuffleSelectsBytes w (mtab c) _ (by omega), vecByte_mtab c hi hj]
  by_cases hlen : j < ctrlLen c i
  · obtain ⟨hnum, hlt⟩ := maskByte_toNat c hi hlen
    have hbit : (BitVec.ofNat 8 (quadLen c i + j)).getLsbD 7 = false := by
      rw [BitVec.getLsbD, hnum]
      exact Nat.testBit_lt_two_pow (by omega)
    simp only [if_pos hlen, hbit, hnum, Nat.mod_eq_of_lt hlt]
    rfl
  · rw [if_neg hlen, if_neg hlen, if_pos (by decide)]

/-! ## The lanes -/

/-- A little-endian number padded with zero bytes: they are the digits it does not have. -/
theorem loadLE_of_zeros {f : Nat → Byte} {a l : Nat} (k : Nat) (h : ∀ j, l ≤ j → j < l + k → f (a + j) = 0) :
    loadLE f a (l + k) = loadLE f a l := by
  have hlt := loadLE_lt f a l
  rw [loadLE_of_digits (m := loadLE f a l),
    Nat.mod_eq_of_lt (hlt.trans_le (Nat.pow_le_pow_right (by decide) (Nat.le_add_right l k)))]
  intro j hj
  by_cases hjl : j < l
  · rw [loadLE_div_mod f a hjl]
  · rw [h j (not_lt.1 hjl) hj,
      Nat.div_eq_of_lt (hlt.trans_le (Nat.pow_le_pow_right (by decide) (not_lt.1 hjl)))]
    rfl

/-- A lane is the little-endian number of its four bytes (R9). -/
theorem vecLane_eq_assemble (v : V128) (i : Nat) : vecLane v i = assemble (vecByte v) (4 * i) 4 := by
  apply BitVec.eq_of_toNat_eq
  rw [assemble_toNat _ _ le_rfl, loadLE_of_digits (m := (vecLane v i).toNat),
    Nat.mod_eq_of_lt (show (vecLane v i).toNat < 256 ^ 4 from (vecLane v i).isLt)]
  intro j hj
  have hpow : 2 ^ (8 * (4 * i + j)) = 2 ^ (32 * i) * 256 ^ j := by
    rw [show 256 = 2 ^ 8 from rfl, ← Nat.pow_mul, ← Nat.pow_add]
    congr 1
    omega
  rw [vecByte, vecLane, BitVec.extractLsb'_toNat, BitVec.extractLsb'_toNat, Nat.shiftRight_eq_div_pow,
    Nat.shiftRight_eq_div_pow, hpow, ← Nat.div_div_eq_div_mul]
  interval_cases j <;> omega

/-- Lane `i` of a vector shuffled by `MTAB[c]` is integer `i` of the quad. -/
theorem vecLane_shuf_mtab (w : V128) (c : Byte) {i : Nat} (hi : i < 4) :
    vecLane (shuf w (mtab c)) i = assemble (vecByte w) (quadLen c i) (ctrlLen c i) := by
  have hlen := ctrlLen_le c i
  have hzeros := loadLE_of_zeros (f := vecByte (shuf w (mtab c))) (a := 4 * i) (l := ctrlLen c i) (4 - ctrlLen c i)
    fun j hj hj' => by rw [vecByte_shuf_mtab w c hi (by omega), if_neg (by omega)]
  rw [Nat.add_sub_cancel' hlen] at hzeros
  rw [vecLane_eq_assemble, assemble, hzeros]
  exact congrArg (BitVec.ofNat 32) (loadLE_congr fun j hj => by
    rw [vecByte_shuf_mtab w c hi (by omega), if_pos hj])

/-- A vector is its bytes (R9). -/
theorem vec_ext {v w : V128} (h : ∀ i < 4, ∀ j < 4, vecByte v (4 * i + j) = vecByte w (4 * i + j)) : v = w := by
  refine BitVec.eq_of_getLsbD_eq fun k hk => ?_
  have hbit (u : V128) : u.getLsbD k = (vecByte u (4 * (k / 32) + k / 8 % 4)).getLsbD (k % 8) := by
    rw [vecByte, BitVec.getLsbD_extractLsb', decide_eq_true (by omega), Bool.true_and]
    congr 1
    omega
  rw [hbit v, hbit w, h _ (by omega) _ (by omega)]

/-- The window bytes past the quad's payload do not matter. -/
theorem shuf_mtab_congr {w w' : V128} {c : Byte} (h : ∀ j < ptab c, vecByte w' j = vecByte w j) :
    shuf w' (mtab c) = shuf w (mtab c) := by
  refine vec_ext fun i hi j hj => ?_
  rw [vecByte_shuf_mtab w' c hi hj, vecByte_shuf_mtab w c hi hj]
  split
  · have := quadLen_add_ctrlLen_le_ptab c hi
    exact h _ (by omega)
  · rfl

/-- Settles O13: the lanes by their bytes, and a shuffled vector by its bytes. -/
theorem shuffleAssemblesIntegers : Obligations.ShuffleAssemblesIntegers :=
  fun c w => ⟨fun _ hi => vecLane_shuf_mtab w c hi, fun _ h => shuf_mtab_congr h⟩

/-! ## The tables -/

/-- Settles O8: `quad_len` by its own bounds, its sum, and its value at 4. -/
theorem quadLenSumsLengths : Obligations.QuadLenSumsLengths :=
  fun c r _ _ => ⟨quadLen_eq_sum c r, le_quadLen c r, quadLen_le c r, (ptab_eq_quadLen c).symm⟩

/-- The source bytes of the mask are no sentinel. -/
theorem maskByte_ne_sentinel (c : Byte) {i j : Nat} (hi : i < 4) (hj : j < ctrlLen c i) :
    BitVec.ofNat 8 (quadLen c i + j) ≠ zeroSentinel := by
  obtain ⟨hnum, hlt⟩ := maskByte_toNat c hi hj
  intro h
  rw [h] at hnum
  exact absurd (hnum ▸ hlt) (by decide)

/-- The row of integer `i` in `MTAB[c]`: its source bytes in order, then sentinels. -/
theorem mtab_row (c : Byte) {i : Nat} (hi : i < 4) :
    (List.range 4).map (fun j => vecByte (mtab c) (4 * i + j)) =
      (List.range (ctrlLen c i)).map (fun j => BitVec.ofNat 8 (quadLen c i + j)) ++
        List.replicate (4 - ctrlLen c i) zeroSentinel := by
  have hlen := ctrlLen_le c i
  refine List.ext_getElem (by simp; omega) fun j hj _ => ?_
  have hj4 : j < 4 := by simpa using hj
  rw [List.getElem_map, List.getElem_range, vecByte_mtab c hi hj4, List.getElem_append]
  simp

/-- The 16 bytes of a vector, row by row. -/
theorem vecBytes_eq_rows (v : V128) :
    (List.range 16).map (vecByte v) = (List.range 4).flatMap fun i => (List.range 4).map fun j => vecByte v (4 * i + j) :=
  rfl

/-- The entries of the row of integer `i` that are no sentinel. -/
theorem mtab_row_filter_sources (c : Byte) {i : Nat} (hi : i < 4) :
    ((List.range 4).map fun j => vecByte (mtab c) (4 * i + j)).filter (fun b => b != zeroSentinel) =
      (List.range (ctrlLen c i)).map fun j => BitVec.ofNat 8 (quadLen c i + j) := by
  rw [mtab_row c hi, List.filter_append, List.filter_replicate_of_neg (by decide), List.append_nil,
    List.filter_eq_self]
  intro b hb
  obtain ⟨j, hj, rfl⟩ := List.mem_map.1 hb
  exact bne_iff_ne.2 (maskByte_ne_sentinel c hi (List.mem_range.1 hj))

/-- The rows of the first `r` integers list the source bytes of their payload in order. -/
theorem mtab_rows_filter_sources (c : Byte) {r : Nat} (hr : r ≤ 4) :
    (((List.range r).flatMap fun i => (List.range 4).map fun j => vecByte (mtab c) (4 * i + j)).filter
      fun b => b != zeroSentinel) = (List.range (quadLen c r)).map (BitVec.ofNat 8) := by
  induction r with
  | zero => rfl
  | succ r ih =>
    rw [List.range_succ (n := r), List.flatMap_append, List.filter_append, ih (by omega), List.flatMap_singleton,
      mtab_row_filter_sources c (by omega), quadLen, List.range_add, List.map_append, List.map_map]
    rfl

/-- The entries of `MTAB[c]` that are no sentinel are `0 .. PTAB[c]-1` in order. -/
theorem mtab_filter_sources (c : Byte) :
    ((List.range 16).map (vecByte (mtab c))).filter (fun b => b != zeroSentinel) =
      (List.range (ptab c)).map (BitVec.ofNat 8) := by
  rw [vecBytes_eq_rows, mtab_rows_filter_sources c le_rfl, ptab_eq_quadLen]

/-- The sentinels of `MTAB[c]` fill the bytes that its sources leave. -/
theorem mtab_filter_sentinels_length (c : Byte) :
    (((List.range 16).map (vecByte (mtab c))).filter fun b => b == zeroSentinel).length = 16 - ptab c := by
  have hsources := congrArg List.length (mtab_filter_sources c)
  have hsplit := List.length_eq_length_filter_add (l := (List.range 16).map (vecByte (mtab c)))
    (fun b => b != zeroSentinel)
  simp only [List.length_map, List.length_range, bne, Bool.not_not] at hsources hsplit
  omega

/-- The mask of `c` tells the lengths that `c` packs: row `i` has sources up to `L_i`. -/
theorem ctrlLen_of_mtab_eq {c c' : Byte} (h : mtab c = mtab c') {i : Nat} (hi : i < 4) : ctrlLen c i = ctrlLen c' i := by
  have hrow := congrArg List.length (mtab_row_filter_sources c hi)
  rw [h, mtab_row_filter_sources c' hi] at hrow
  simpa using hrow.symm

/-- A control byte is told by the four lengths it packs. -/
theorem eq_of_ctrlLen_eq {c c' : Byte} (h : ∀ i < 4, ctrlLen c i = ctrlLen c' i) : c = c' := by
  apply BitVec.eq_of_toNat_eq
  rw [toNat_eq_sum_of_ctrlFields c, toNat_eq_sum_of_ctrlFields c']
  have hfield : ∀ i < 4, (c.extractLsb' (2 * i) 2).toNat = (c'.extractLsb' (2 * i) 2).toNat := fun i hi => by
    simpa [ctrlLen_eq_ctrlField] using h i hi
  rw [hfield 0 (by decide), hfield 1 (by decide), hfield 2 (by decide), hfield 3 (by decide)]

/-- The payload length counts the four fields from 1 (R113). -/
theorem ptab_eq_ctrlFields (c : Byte) :
    ptab c = 4 + (c.extractLsb' (2 * 0) 2).toNat + (c.extractLsb' (2 * 1) 2).toNat + (c.extractLsb' (2 * 2) 2).toNat +
      (c.extractLsb' (2 * 3) 2).toNat := by
  simp only [ptab, ctrlLen_eq_ctrlField]
  omega

theorem ptab_eq_four_iff {c : Byte} : ptab c = 4 ↔ c = 0x00 := by
  have hsum := toNat_eq_sum_of_ctrlFields c
  rw [ptab_eq_ctrlFields, ← BitVec.toNat_inj]
  show _ ↔ c.toNat = 0
  omega

theorem ptab_eq_sixteen_iff {c : Byte} : ptab c = 16 ↔ c = 0xFF := by
  have hsum := toNat_eq_sum_of_ctrlFields c
  rw [ptab_eq_ctrlFields, ← BitVec.toNat_inj]
  show _ ↔ c.toNat = 255
  omega

/-- Every entry of `MTAB[c]` is the sentinel or a source below PTAB[c]. -/
theorem vecByte_mtab_cases (c : Byte) {k : Nat} (hk : k < 16) :
    vecByte (mtab c) k = zeroSentinel ∨ (vecByte (mtab c) k).toNat < ptab c := by
  obtain ⟨i, j, hi, hj, rfl⟩ : ∃ i j, i < 4 ∧ j < 4 ∧ k = 4 * i + j := ⟨k / 4, k % 4, by omega, by omega, by omega⟩
  rw [vecByte_mtab c hi hj]
  split
  next hlen =>
    have := quadLen_add_ctrlLen_le_ptab c hi
    rw [(maskByte_toNat c hi hlen).1]
    exact .inr (by omega)
  next => exact .inl rfl

/-- The payload lengths of the 256 control bytes, counted: one control byte has length 4, four have length 5, and so on. -/
theorem ptab_histogram :
    (List.range 13).map (fun k => ((List.range 256).filter fun c => ptab (BitVec.ofNat 8 c) == k + 4).length) =
      [1, 4, 10, 20, 31, 40, 44, 40, 31, 20, 10, 4, 1] := by
  simp only [ptab_eq_digits, BitVec.toNat_ofNat]
  decide

/-- Settles O11: the masks row by row, the payload lengths by the digits of the control byte, and the histogram by
counting. -/
theorem tableFacts : Obligations.TableFacts := by
  refine ⟨fun c => ⟨fun k hk => ?_, fun k hk h15 => ?_, fun i hi => ?_, ?_, mtab_filter_sources c,
    mtab_filter_sentinels_length c, fun c' h => eq_of_ctrlLen_eq fun i hi => ctrlLen_of_mtab_eq h hi,
    ptab_eq_four_iff, ptab_eq_sixteen_iff⟩, ptab_histogram⟩
  · have := ptab_le c
    exact (vecByte_mtab_cases c hk).imp id fun h => by omega
  · have hlast : (vecByte (mtab c) k).toNat < ptab c := (vecByte_mtab_cases c hk).resolve_left (by rw [h15]; decide)
    rw [h15] at hlast
    have h16 : ptab c = 16 := le_antisymm (ptab_le c) hlast
    exact ⟨h16, ptab_eq_sixteen_iff.1 h16⟩
  · have hpos : 0 < ctrlLen c i := ctrlLen_pos c i
    have hrow := vecByte_mtab c hi (j := 0) (by decide)
    rw [if_pos hpos] at hrow
    exact hrow ▸ maskByte_ne_sentinel c hi hpos
  · have hpos : 0 < ctrlLen c 0 := ctrlLen_pos c 0
    have hrow := vecByte_mtab c (i := 0) (j := 0) (by decide) (by decide)
    rwa [if_pos hpos] at hrow

end Sys2Proof.Machine
end

section
/-! The two decodes quad by quad (43_scalar_decoder.md, 44_simd_decoder.md): an SIMD iteration is a scalar quad step, what
it loads past the payload does not matter, nor do the control fields of absent integers, nor the bytes past the stream. -/

namespace Sys2Proof.Machine

/-! ## The SIMD iteration against the scalar quad step -/

/-- Cut out of the window, the quad's integers are those at the data cursor. -/
theorem vecLanes_shuffled (c : Byte) (s : State) : vecLanes (s.shuffled c) = quadInts s.encByte s.dc c 4 := by
  refine List.map_congr_left fun i hi => ?_
  have hi : i < 4 := List.mem_range.1 hi
  have hlen := quadLen_add_ctrlLen_le_ptab c hi
  have hptab := ptab_le c
  rw [State.shuffled, vecLane_shuf_mtab _ c hi]
  exact congrArg (BitVec.ofNat 32) (loadLE_congr fun j hj => by
    rw [vecByte_loadWindow s.encByte s.dc (by omega), Nat.add_assoc])

/-- The SIMD iteration leaves what a scalar quad step over four integers leaves, vector registers apart. -/
theorem State.afterSimdQuad_eq (c : Byte) (s : State) : s.afterSimdQuad c =
    (s.afterScalarQuad c 4).withVectors (mtab c) (loadWindow s.encByte s.dc) (s.shuffled c) := by
  rw [State.afterSimdQuad, State.afterScalarQuad, vecLanes_shuffled, ptab_eq_quadLen]
  rfl

/-- While the guard holds the quad is full. -/
theorem quadSize_of_guard {s : State} (hg : guardHolds s = true) : quadSize s.rem = 4 :=
  Nat.min_eq_left (guardHolds_iff.1 hg).1

/-- Settles O28: both step where the guard holds, the payload being no longer than the window, and leave the same. -/
theorem simdIterationMatchesScalarQuad : Obligations.SimdIterationMatchesScalarQuad := by
  intro s c hg hint
  obtain ⟨-, hwindow⟩ := guardHolds_iff.1 hg
  have hsize := quadSize_of_guard hg
  have hlen := quadLen_le c 4
  refine ⟨s.afterSimdQuad c, s.afterScalarQuad c 4, simdQuad_of_fits hwindow hint, ?_, ?_⟩
  · rw [← hsize]
    exact scalarQuad_of_fits (by rw [hsize]; omega) (by rwa [hsize])
  · rw [State.afterSimdQuad_eq]
    rfl

/-- What the window holds past the payload does not reach `V`. -/
theorem State.shuffled_congr {c : Byte} {s s' : State} (hd : s'.dc = s.dc)
    (h : ∀ a, a < s.dc + ptab c → s'.encByte a = s.encByte a) : s'.shuffled c = s.shuffled c := by
  have hptab := ptab_le c
  refine shuf_mtab_congr fun j hj => ?_
  rw [vecByte_loadWindow _ _ (by omega), vecByte_loadWindow _ _ (by omega), hd, h _ (by omega)]

/-- With another memory that shuffles to the same `V`, an iteration leaves the same but for the window and the memory. -/
theorem State.afterSimdQuad_withENC {c : Byte} {s : State} {e : Memory Byte}
    (h : (s.withENC e).shuffled c = s.shuffled c) : (s.withENC e).afterSimdQuad c =
      { s.afterSimdQuad c with W := ((s.withENC e).afterSimdQuad c).W, ENC := e } := by
  unfold State.afterSimdQuad
  rw [h]
  rfl

/-- Settles O29: the guard does not read ENC, and the shuffled window is the same for both memories. -/
theorem windowOverreadIsHarmless : Obligations.WindowOverreadIsHarmless := by
  intro s t e b0 b1 b2 b3 hp hsame h
  obtain ⟨hdue, ⟨-, hq⟩ | ⟨hp', -⟩⟩ := execQuad_next h
  · have hg : guardHolds s = true := by simpa [quadDue, hp] using hdue
    obtain ⟨hwindow, hint, ht⟩ := simdQuad_next hq
    have hshuf := State.shuffled_congr (c := ctrlByte b0 b1 b2 b3) (s := s) (s' := s.withENC e) rfl
      fun a ha => hsame a (.inl ha)
    exact ⟨_, (exec_quad_of_guard (s := s.withENC e) hp hg b0 b1 b2 b3).trans (simdQuad_of_fits hwindow hint),
      ht ▸ State.afterSimdQuad_withENC hshuf⟩
  · exact absurd (hp.symm.trans hp') (by decide)

/-! ## The fields of absent integers -/

theorem quadLen_congr {c c' : Byte} {r : Nat} (h : ∀ i < r, ctrlLen c' i = ctrlLen c i) : quadLen c' r = quadLen c r := by
  rw [quadLen_eq_sum, quadLen_eq_sum]
  exact congrArg List.sum (List.map_congr_left fun i hi => h i (List.mem_range.1 hi))

theorem quadInts_congr_control (f : Nat → Byte) (d : Nat) {c c' : Byte} {r : Nat} (h : ∀ i < r, ctrlLen c' i = ctrlLen c i) :
    quadInts f d c' r = quadInts f d c r := by
  refine List.map_congr_left fun i hi => ?_
  have hi : i < r := List.mem_range.1 hi
  rw [quadLen_congr fun j hj => h j (hj.trans hi), h i hi]

/-- Each length of a control byte made of four fields is its own field's (30_encoding.md R85). -/
theorem ctrlLen_ctrlByte (b0 b1 b2 b3 : BitVec 2) :
    ctrlLen (ctrlByte b0 b1 b2 b3) 0 = b0.toNat + 1 ∧ ctrlLen (ctrlByte b0 b1 b2 b3) 1 = b1.toNat + 1 ∧
      ctrlLen (ctrlByte b0 b1 b2 b3) 2 = b2.toNat + 1 :=
  have h := (controlByteIsItsFields _ _ _ _ _ (decodeCtrl_ctrlByte b0 b1 b2 b3)).2
  ⟨h.1, h.2.1, h.2.2.1⟩

/-- Control bytes with the same lengths for the quad's integers do the same but for the register `c`. -/
theorem scalarQuad_congr_control {c c' : Byte} {s t : State} (hc : ∀ i < quadSize s.rem, ctrlLen c' i = ctrlLen c i)
    (h : scalarQuad c s = .next t) : ∃ u, scalarQuad c' s = .next u ∧ u = { t with c := u.c } := by
  have hneed := quadLen_congr hc
  obtain ⟨hshort, rfl⟩ | ⟨hfits, hint, rfl⟩ := scalarQuad_next h
  · exact ⟨_, scalarQuad_of_truncated (by rwa [hneed]), by rw [hneed]; rfl⟩
  · refine ⟨_, scalarQuad_of_fits (by rwa [hneed]) hint, ?_⟩
    rw [State.afterScalarQuad, hneed, quadInts_congr_control _ _ hc]
    rfl

/-- Settles O30: the two control bytes agree on the fields below `rem`, the only ones that a partial quad reads. -/
theorem partialQuadIgnoresHighFields : Obligations.PartialQuadIgnoresHighFields := by
  intro s t b0 b1 b2 b1' b2' b3 b3' hp hpos hlt h1 h2 h
  rw [exec_quad_of_scalarTail hp hpos] at h ⊢
  refine scalarQuad_congr_control (fun i hi => ?_) h
  obtain ⟨c0, c1, c2⟩ := ctrlLen_ctrlByte b0 b1 b2 b3
  obtain ⟨c0', c1', c2'⟩ := ctrlLen_ctrlByte b0 b1' b2' b3'
  have hi : i < s.rem := hi.trans_le (quadSize_le_rem _)
  obtain rfl | rfl | rfl : i = 0 ∨ i = 1 ∨ i = 2 := by omega
  · rw [c0, c0']
  · rw [c1, c1', h1 hi]
  · rw [c2, c2', h2 hi]

/-! ## The bytes past the stream -/

/-- A quad that `decode_fn` passes over: its payload is in bounds and the quads after it decode. -/
theorem decodeQuads_succ_ok {f : Nat → Byte} {len n k q d e : Nat} {xs : List Word}
    (h : decodeQuads f len n (k + 1) q d = .ok (xs, e)) :
    d + quadLen (f q) (quadSize (n - 4 * q)) ≤ len ∧
    ∃ ys, decodeQuads f len n k (q + 1) (d + quadLen (f q) (quadSize (n - 4 * q))) = .ok (ys, e) ∧
      xs = quadInts f d (f q) (quadSize (n - 4 * q)) ++ ys := by
  by_cases hlen : d + quadLen (f q) (quadSize (n - 4 * q)) ≤ len
  · rw [decodeQuads_succ_of_fits hlen] at h
    cases hrest : decodeQuads f len n k (q + 1) (d + quadLen (f q) (quadSize (n - 4 * q))) with
    | ok p =>
      rw [hrest] at h
      cases h
      exact ⟨hlen, p.1, rfl, rfl⟩
    | error _ =>
      rw [hrest] at h
      cases h
  · rw [decodeQuads_succ_of_short (not_le.1 hlen)] at h
    cases h

/-- A decode of the integers from `4q` on takes at least a byte for each of them. -/
theorem decodeQuads_consumes {f : Nat → Byte} {len n k q d e : Nat} {xs : List Word} (hn : n ≤ 4 * (q + k))
    (h : decodeQuads f len n k q d = .ok (xs, e)) : d + (n - 4 * q) ≤ e := by
  induction k generalizing q d xs with
  | zero =>
    cases h
    omega
  | succ k ih =>
    obtain ⟨-, ys, hrest, -⟩ := decodeQuads_succ_ok h
    have hle := ih (by omega) hrest
    have hquad := le_quadLen (f q) (quadSize (n - 4 * q))
    unfold quadSize at *
    omega

/-- A quad's integers depend on the bytes of its payload only. -/
theorem quadInts_congr_bytes {f g : Nat → Byte} {d : Nat} {c : Byte} {r : Nat}
    (h : ∀ j < quadLen c r, g (d + j) = f (d + j)) : quadInts g d c r = quadInts f d c r := by
  refine List.map_congr_left fun i hi => ?_
  have hlen := quadLen_add_ctrlLen_le c (List.mem_range.1 hi)
  exact congrArg (BitVec.ofNat 32) (loadLE_congr fun j hj => by
    rw [Nat.add_assoc]
    exact h _ (by omega))

/-- The quads that decode, up to `e`, do so on every buffer of at least `e` bytes with the same bytes below `e`. -/
theorem decodeQuads_congr {f g : Nat → Byte} {len len' n k q d e : Nat} {xs : List Word} (hctrl : q + k ≤ d)
    (hn : n ≤ 4 * (q + k)) (hsame : ∀ a < e, g a = f a) (hlen' : e ≤ len')
    (h : decodeQuads f len n k q d = .ok (xs, e)) : decodeQuads g len' n k q d = .ok (xs, e) := by
  induction k generalizing q d xs with
  | zero => exact h
  | succ k ih =>
    obtain ⟨-, ys, hrest, rfl⟩ := decodeQuads_succ_ok h
    have hend := decodeQuads_consumes (by omega) hrest
    have hg : g q = f q := hsame q (by omega)
    have hrest' := ih (by omega) (by omega) hrest
    rw [← hg] at hrest' hend
    have hints := quadInts_congr_bytes (f := f) (g := g) (d := d) (c := g q) (r := quadSize (n - 4 * q)) fun j hj =>
      hsame _ (by omega)
    rw [decodeQuads_succ_of_fits (by omega), hrest', hints, hg]
    rfl

/-- Settles O34: the control stream and the payloads of the quads all lie below the length consumed. -/
theorem trailingBytesAreIgnored : Obligations.TrailingBytesAreIgnored := by
  intro f g len len' n e xs h hsame hlen'
  unfold decodeFn at h ⊢
  split at h
  · cases h
  · have hn : n ≤ 4 * (0 + controlStreamLen n) := by simpa using controlStreamLen_le_iff.1 (le_refl (controlStreamLen n))
    have hend := decodeQuads_consumes hn h
    rw [if_neg (by omega)]
    exact decodeQuads_congr (by omega) hn hsame hlen' h

end Sys2Proof.Machine
end

section
/-! The start of a command (45_driver.md R160, 43_scalar_decoder.md R131): a write of a listed opcode to CMD runs that
command, the three outcomes of a decode's start, and the refusal of operands never written (10_state.md R39). -/

namespace Sys2Proof.Machine

/-! ## A write to CMD -/

/-- Settles O45: the write of a byte starts the command it decodes to, on the state that holds the byte. -/
theorem stepRunsTheCommand : Obligations.StepRunsTheCommand := by
  intro s v i rest hh hb hv hi
  rw [step_of_host_cons hh, show hostStep exec (.wr 0 v) s (s.withHost rest) = hostWrite exec 0 v (s.withHost rest) from rfl,
    hostWrite_CMD (s := s.withHost rest) hb hv, startCommand, hi]
  rfl

/-- A unit that is not busy, once the host's write of a listed opcode has been taken: no action pending, CMD holding it. -/
def State.commanded (v : Nat) (s : State) : State := (s.withHost []).withCMD (BitVec.ofNat 8 v)

theorem step_withCommand {s : State} (hb : s.busy = false) {v : Nat} (hv : v < 256) {i : Instr}
    (hi : decodeCmd (BitVec.ofNat 8 v) = .ok i) : step (s.withCommand v) = exec i (s.commanded v) :=
  stepRunsTheCommand (s.withCommand v) v i [] rfl hb hv hi

/-! ## The start of a decode -/

section DecodeStart

variable {s : State} (st : Strategy) (ph : Phase)

theorem decodeStart_of_contract (hb : s.busy = false) (hw : s.contractOperandsWritten = true)
    (hshort : s.ENC_LEN < controlStreamLen s.N + s.N) :
    decodeStart st ph s = .next (raise .contract (controlStreamLen s.N + s.N) s.ENC_LEN s) :=
  (whenStartable_ready hb hw _).trans (if_pos hshort)

/-- Past the check of CONTRACT the start reads INT_LEN. -/
theorem decodeStart_of_enough (hb : s.busy = false) (hw : s.contractOperandsWritten = true)
    (henough : controlStreamLen s.N + s.N ≤ s.ENC_LEN) : decodeStart st ph s = whenWritten s.intLenWritten
      (if s.INT_LEN < s.N then .next (raise .capacity s.N s.INT_LEN s) else .next (s.latch s.N st ph)) :=
  (whenStartable_ready hb hw _).trans (if_neg henough.not_gt)

theorem decodeStart_of_no_capacity (hb : s.busy = false) (hw : s.contractOperandsWritten = true)
    (henough : controlStreamLen s.N + s.N ≤ s.ENC_LEN) (hi : s.intLenWritten = true) (hcap : s.INT_LEN < s.N) :
    decodeStart st ph s = .next (raise .capacity s.N s.INT_LEN s) := by
  rw [decodeStart_of_enough st ph hb hw henough, whenWritten, if_pos hi, if_pos hcap]

theorem decodeStart_of_room (hb : s.busy = false) (hw : s.contractOperandsWritten = true)
    (henough : controlStreamLen s.N + s.N ≤ s.ENC_LEN) (hi : s.intLenWritten = true) (hcap : s.N ≤ s.INT_LEN) :
    decodeStart st ph s = .next (s.latch s.N st ph) := by
  rw [decodeStart_of_enough st ph hb hw henough, whenWritten, if_pos hi, if_neg hcap.not_gt]

end DecodeStart

/-- Both decode commands are their start step, each with its strategy and phase. -/
theorem exec_decode_eq {i : Instr} (hi : i ∈ [Instr.decS, Instr.decV]) : ∃ st ph, ∀ s, exec i s = decodeStart st ph s := by
  obtain rfl | rfl : i = .decS ∨ i = .decV := by simpa using hi
  · exact ⟨.scalar, .scalarTail, fun _ => rfl⟩
  · exact ⟨.simd, .simdBulk, fun _ => rfl⟩

/-- Settles O23: the three outcomes, in the order of their checks. -/
theorem decodeStartStep : Obligations.DecodeStartStep := by
  intro s hb hn he
  have hw : s.contractOperandsWritten = true := by rw [State.contractOperandsWritten, hn, he, Bool.and_self]
  refine ⟨fun hshort i hi => ?_, fun henough hint hcap i hi => ?_, fun henough hint hcap =>
    ⟨decodeStart_of_room .scalar .scalarTail hb hw henough hint hcap,
      decodeStart_of_room .simd .simdBulk hb hw henough hint hcap⟩⟩
  · obtain ⟨st, ph, hexec⟩ := exec_decode_eq hi
    rw [hexec, decodeStart_of_contract st ph hb hw hshort, raise_of_ne (by decide)]
    rfl
  · obtain ⟨st, ph, hexec⟩ := exec_decode_eq hi
    rw [hexec, decodeStart_of_no_capacity st ph hb hw henough hint hcap, raise_of_ne (by decide)]
    rfl

/-! ## Refusals -/

theorem whenStartable_of_unwritten {w : Bool} {s : State} (hb : s.busy = false) (hw : w = false) (go : Result) :
    whenStartable w s go = .refused .operandNeverWritten := by
  simp [whenStartable, whenWritten, hb, hw]

theorem whenStartable_of_busy {s : State} (hb : s.busy = true) (w : Bool) (go : Result) :
    whenStartable w s go = .refused .hostAccessWhileBusy :=
  if_pos hb

/-- A decode is refused where an operand it reads has not been written: N or ENC_LEN, or INT_LEN past the check of
CONTRACT. -/
theorem decodeStart_of_unwritten (st : Strategy) (ph : Phase) {s : State} (hb : s.busy = false)
    (h : s.nWritten = false ∨ s.encLenWritten = false ∨
      (s.intLenWritten = false ∧ controlStreamLen s.N + s.N ≤ s.ENC_LEN)) :
    decodeStart st ph s = .refused .operandNeverWritten := by
  by_cases hw : s.contractOperandsWritten = true
  · obtain ⟨hn, he⟩ : s.nWritten = true ∧ s.encLenWritten = true := by simpa [State.contractOperandsWritten] using hw
    obtain ⟨hi, henough⟩ : s.intLenWritten = false ∧ controlStreamLen s.N + s.N ≤ s.ENC_LEN := by simpa [hn, he] using h
    rw [decodeStart_of_enough st ph hb hw henough, whenWritten, hi]
    rfl
  · exact whenStartable_of_unwritten hb (by simpa using hw) _

/-- Settles O38: each command asks for its own operands before anything else. -/
theorem unwrittenOperandIsRefused : Obligations.UnwrittenOperandIsRefused := by
  intro s hb
  refine ⟨fun hx => whenStartable_of_unwritten hb hx _, fun hn =>
    ⟨whenStartable_of_unwritten hb hn _, whenStartable_of_unwritten hb hn _⟩, fun h => ?_, fun h =>
    ⟨decodeStart_of_unwritten .scalar .scalarTail hb h, decodeStart_of_unwritten .simd .simdBulk hb h⟩⟩
  refine whenStartable_of_unwritten hb ?_ _
  rcases h with h | h <;> simp [State.encodeOperandsWritten, h]

/-- While busy no command starts. -/
theorem exec_command_of_busy {i : Instr} {s : State} (hb : s.busy = true) (hi : i.isCommand = true) :
    exec i s = .refused .hostAccessWhileBusy := by
  cases i with
  | quad b0 b1 b2 b3 => cases hi
  | blen | clen | mlen | enc | decS | decV => exact whenStartable_of_busy hb _ _

/-- Settles O40: what is excluded is exactly where a quad step is due. -/
theorem controlByteOutOfTurnIsRefused : Obligations.ControlByteOutOfTurnIsRefused := by
  intro s b0 b1 b2 b3 hbulk htail
  refine if_neg fun hdue => ?_
  rcases quadDue_cases hdue with ⟨hp, hg⟩ | ⟨hp, hr⟩
  · exact hbulk ⟨hp, guardHolds_iff.1 hg⟩
  · exact htail ⟨hp, hr⟩

end Sys2Proof.Machine
end

section
/-! Whole decode commands against `decode_fn` (43_scalar_decoder.md R137, 44_simd_decoder.md): the quad loop of either
phase ends as the decoding of the quads left says, by induction over them. -/

namespace Sys2Proof.Machine

/-! ## The end of a decode -/

/-- How `t` ends a decode that stands at `s`, if the quads left decode to `out`: with the integers after those done so
far, or TRUNCATED (R137); never CONTRACT, which the start step has checked. -/
def State.OutcomeOf (s t : State) : Except DecodeFailure (List Word × Nat) → Prop
  | .ok (xs, e) => t.phase = .done ∧ t.errCode = s.errCode ∧ t.RESULT = e ∧ t.ERR_EXPECTED = 0 ∧ t.ERR_AVAILABLE = 0 ∧
      s.intWords 0 s.oc ++ xs = t.intWords 0 s.n
  | .error (.truncated e) => t.phase = .error ∧ t.errCode = some .truncated ∧ t.RESULT = 0 ∧
      t.ERR_EXPECTED = min e (maxCount s.aw) ∧ t.ERR_AVAILABLE = s.ENC_LEN
  | .error (.contract _) => False

/-- `t` is the end of a decode that stands at `s` and whose quads left decode to `out`: beside the outcome, what is as it
was. -/
structure State.DecodeEnd (s t : State) (out : Except DecodeFailure (List Word × Nat)) : Prop where
  host : t.host = []
  ENC : t.ENC = s.ENC
  N : t.N = s.N
  X : t.X = s.X
  ENC_LEN : t.ENC_LEN = s.ENC_LEN
  INT_LEN : t.INT_LEN = s.INT_LEN
  intWord_kept : ∀ j, s.n ≤ j → t.intWord j = s.intWord j
  outcome : s.OutcomeOf t out

theorem State.DecodeEnd.not_busy {s t : State} {out : Except DecodeFailure (List Word × Nat)} (h : s.DecodeEnd t out) :
    t.busy = false := by
  have hout := h.outcome
  match out with
  | .ok (xs, e) => simp [State.busy, hout.1]
  | .error (.truncated e) => simp [State.busy, hout.1]
  | .error (.contract e) => exact hout.elim

/-- Where a decode stands between its steps, its start checks passed and no host action pending. -/
structure State.DecodeReady (s : State) : Prop where
  cursors : s.CursorsOk
  room : s.n ≤ s.INT_LEN
  host : s.host = []

/-! ## One quad -/

theorem State.intWords_add (s : State) (k r : Nat) : s.intWords 0 (k + r) = s.intWords 0 k ++ s.intWords k r := by
  simp only [State.intWords, List.range_add, List.map_append, List.map_map, Nat.zero_add]
  rfl

/-- The integers done after a quad are those done before it, then the quad's. -/
theorem State.afterScalarQuad_intWords (c : Byte) (r : Nat) (s : State) :
    (s.afterScalarQuad c r).intWords 0 (s.oc + r) = s.intWords 0 s.oc ++ quadInts s.encByte s.dc c r := by
  rw [State.intWords_add]
  congr 1
  · refine List.map_congr_left fun i hi => State.afterScalarQuad_intWord_outside c (.inl ?_)
    rw [Nat.zero_add]
    exact List.mem_range.1 hi
  · exact List.map_congr_left fun i hi => s.afterScalarQuad_intWord_quad c (List.mem_range.1 hi)

/-- A quad whose payload is in bounds leaves a decode ready for the next one. -/
theorem State.DecodeReady.afterScalarQuad {s : State} (h : s.DecodeReady) (hr : 0 < s.rem)
    (hfits : s.dc + quadLen (s.encByte s.cc) (quadSize s.rem) ≤ s.ENC_LEN) :
    (s.afterScalarQuad (s.encByte s.cc) (quadSize s.rem)).DecodeReady where
  cursors := { h.cursors.advance hr (s.encByte s.cc) hfits with }
  room := h.room
  host := h.host

theorem State.DecodeReady.intHas_quad {s : State} (h : s.DecodeReady) : s.intHas s.oc (quadSize s.rem) :=
  h.cursors.oc_add_quadSize_le.trans h.room

theorem State.DecodeReady.encHas_control {s : State} (h : s.DecodeReady) (hr : 0 < s.rem) : s.encHas s.cc 1 :=
  (h.cursors.cc_lt_dc hr).trans_le h.cursors.dc_le

/-- The outcome of the quads left, `k` of them, from where `s` stands. -/
def State.decodeRest (s : State) (k : Nat) : Except DecodeFailure (List Word × Nat) :=
  decodeQuads s.encByte s.ENC_LEN s.n k s.cc s.dc

theorem State.decodeRest_succ_of_fits {s : State} (hc : s.CursorsOk) {k : Nat}
    (hfits : s.dc + quadLen (s.encByte s.cc) (quadSize s.rem) ≤ s.ENC_LEN) : s.decodeRest (k + 1) =
      ((s.afterScalarQuad (s.encByte s.cc) (quadSize s.rem)).decodeRest k).map
        fun p => (quadInts s.encByte s.dc (s.encByte s.cc) (quadSize s.rem) ++ p.1, p.2) := by
  rw [State.decodeRest, decodeQuads_succ_of_fits (by rwa [hc.quadSize_rem]), hc.quadSize_rem]
  rfl

theorem State.decodeRest_succ_of_short {s : State} (hc : s.CursorsOk) {k : Nat}
    (hshort : s.ENC_LEN < s.dc + quadLen (s.encByte s.cc) (quadSize s.rem)) :
    s.decodeRest (k + 1) = .error (.truncated (s.dc + quadLen (s.encByte s.cc) (quadSize s.rem))) := by
  rw [State.decodeRest, decodeQuads_succ_of_short (by rwa [hc.quadSize_rem]), hc.quadSize_rem]

/-- The end of the decode after a quad is the end of the decode before it. -/
theorem State.DecodeEnd.of_afterScalarQuad {s t : State} (h : s.DecodeReady) {k : Nat}
    (hfits : s.dc + quadLen (s.encByte s.cc) (quadSize s.rem) ≤ s.ENC_LEN)
    (hend : (s.afterScalarQuad (s.encByte s.cc) (quadSize s.rem)).DecodeEnd t
      ((s.afterScalarQuad (s.encByte s.cc) (quadSize s.rem)).decodeRest k)) :
    s.DecodeEnd t (s.decodeRest (k + 1)) := by
  have hints := s.afterScalarQuad_intWords (s.encByte s.cc) (quadSize s.rem)
  have hin := h.cursors.oc_add_quadSize_le
  rw [State.decodeRest_succ_of_fits h.cursors hfits]
  have hrest := hend.outcome
  refine { hend with intWord_kept := fun j hj => ?_, outcome := ?_ }
  · exact (hend.intWord_kept j hj).trans (State.afterScalarQuad_intWord_outside _ (.inr (by omega)))
  · generalize (s.afterScalarQuad (s.encByte s.cc) (quadSize s.rem)).decodeRest k = out at hrest ⊢
    match out with
    | .ok (xs, e) =>
      obtain ⟨hp, herr, hres, hexp, hav, hxs⟩ := hrest
      refine ⟨hp, herr, hres, hexp, hav, ?_⟩
      rw [← List.append_assoc, ← hints]
      exact hxs
    | .error (.truncated e) => exact hrest
    | .error (.contract e) => exact hrest

/-- Nothing left: the end step. -/
theorem State.DecodeEnd.of_finish {s : State} (h : s.DecodeReady) (hr : s.rem = 0) :
    s.DecodeEnd (s.finish s.dc) (s.decodeRest 0) := by
  have hdone : s.oc = s.n := by
    obtain ⟨hoc, hrem, -, -, -⟩ := h.cursors
    omega
  refine ⟨h.host, rfl, rfl, rfl, rfl, rfl, fun _ _ => rfl, rfl, rfl, rfl, rfl, rfl, ?_⟩
  rw [List.append_nil, hdone]
  rfl

/-- A payload out of bounds: TRUNCATED. -/
theorem State.DecodeEnd.of_truncated {s : State} (h : s.DecodeReady) {k : Nat}
    (hshort : s.ENC_LEN < s.dc + quadLen (s.encByte s.cc) (quadSize s.rem)) :
    s.DecodeEnd (raise .truncated (s.dc + quadLen (s.encByte s.cc) (quadSize s.rem)) s.ENC_LEN
      (s.withControl (s.encByte s.cc))) (s.decodeRest (k + 1)) := by
  rw [State.decodeRest_succ_of_short h.cursors hshort]
  exact ⟨h.host, rfl, rfl, rfl, rfl, rfl, fun j hj => raise_truncated_intWord (s := s.withControl _) _ _ hj,
    rfl, rfl, rfl, rfl, rfl⟩

/-! ## The two loops -/

/-- A run that ends a decode may go on for more steps: they change nothing. -/
theorem runSteps_of_decodeEnd {a b : Nat} {s t u : State} {out : Except DecodeFailure (List Word × Nat)}
    (h : runSteps a u = .next t) (hend : s.DecodeEnd t out) (hab : a ≤ b) : runSteps b u = .next t := by
  obtain ⟨m, rfl⟩ := Nat.exists_eq_add_of_le hab
  rw [runSteps_add h, runSteps_of_not_busy hend.host hend.not_busy]

theorem State.DecodeReady.rem_pos {s : State} (h : s.DecodeReady) {k : Nat}
    (hk : s.cc + (k + 1) = controlStreamLen s.n) : 0 < s.rem := by
  obtain ⟨hoc, hrem, -, -, -⟩ := h.cursors
  unfold controlStreamLen at hk
  omega

theorem State.DecodeReady.rem_zero {s : State} (h : s.DecodeReady) (hk : s.cc = controlStreamLen s.n) : s.rem = 0 := by
  obtain ⟨hoc, hrem, -, -, -⟩ := h.cursors
  have := controlStreamLen_le_iff.1 hk.ge
  omega

/-- In SCALAR_TAIL with `k` quads left, at most `k + 1` steps end the decode. -/
theorem scalarTail_ends {k : Nat} {s : State} (h : s.DecodeReady) (hp : s.phase = .scalarTail)
    (hk : s.cc + k = controlStreamLen s.n) :
    ∃ t, runSteps (k + 1) s = .next t ∧ s.DecodeEnd t (s.decodeRest k) := by
  induction k generalizing s with
  | zero =>
    have hr := h.rem_zero hk
    have hstep : step s = .next (s.finish s.dc) := by rw [step_of_host_nil h.host, engineStep_of_rem_zero (.inr hp) hr]
    exact ⟨_, runSteps_succ hstep 0, .of_finish h hr⟩
  | succ k ih =>
    have hr := h.rem_pos hk
    have hdue : quadDue s = true := by simp [quadDue, hp, hr]
    have hstep : step s = scalarQuad (s.encByte s.cc) s := by
      rw [step_of_host_nil h.host, engineStep_of_scalarTail hp hr (h.encHas_control hr), exec_decodeCtrl_of_due hdue,
        if_neg (by simp [hp])]
    by_cases hfits : s.dc + quadLen (s.encByte s.cc) (quadSize s.rem) ≤ s.ENC_LEN
    · rw [scalarQuad_of_fits hfits h.intHas_quad] at hstep
      rw [runSteps_succ hstep]
      obtain ⟨t, ht, hend⟩ := ih (h.afterScalarQuad hr hfits) hp
        (by show s.cc + 1 + k = controlStreamLen s.n; omega)
      exact ⟨t, ht, .of_afterScalarQuad h hfits hend⟩
    · have hshort := not_le.1 hfits
      rw [scalarQuad_of_truncated hshort] at hstep
      have hend : s.DecodeEnd _ (s.decodeRest (k + 1)) := .of_truncated h hshort
      exact ⟨_, runSteps_of_decodeEnd (runSteps_succ hstep 0) hend (by omega), hend⟩

theorem State.DecodeReady.withVectors {s : State} (h : s.DecodeReady) (m w v : V128) :
    (s.withVectors m w v).DecodeReady :=
  ⟨{ h.cursors with }, h.room, h.host⟩

/-- The vector registers have no part in the end of a decode. -/
theorem State.DecodeEnd.of_withVectors {s t : State} {m w v : V128} {k : Nat}
    (h : (s.withVectors m w v).DecodeEnd t ((s.withVectors m w v).decodeRest k)) : s.DecodeEnd t (s.decodeRest k) :=
  { h with }

/-- In SIMD_BULK with the guard false, the switch step leaves the quads to SCALAR_TAIL. -/
theorem simdBulk_ends_of_not_guard {k : Nat} {s : State} (h : s.DecodeReady) (hp : s.phase = .simdBulk)
    (hg : ¬ guardHolds s = true) (hk : s.cc + k = controlStreamLen s.n) :
    ∃ t, runSteps (k + 2) s = .next t ∧ s.DecodeEnd t (s.decodeRest k) := by
  have hstep : step s = .next (s.withPhase .scalarTail) := by
    rw [step_of_host_nil h.host, engineStep_of_not_guard hp hg]
  rw [runSteps_succ hstep]
  obtain ⟨t, ht, hend⟩ := scalarTail_ends (s := s.withPhase .scalarTail) ⟨{ h.cursors with }, h.room, h.host⟩ rfl hk
  exact ⟨t, ht, { hend with }⟩

/-- In SIMD_BULK with `k` quads left, at most `k + 2` steps end the decode, with the same outcome. -/
theorem simdBulk_ends {k : Nat} {s : State} (h : s.DecodeReady) (hp : s.phase = .simdBulk)
    (hk : s.cc + k = controlStreamLen s.n) :
    ∃ t, runSteps (k + 2) s = .next t ∧ s.DecodeEnd t (s.decodeRest k) := by
  induction k generalizing s with
  | zero =>
    have hr := h.rem_zero hk
    exact simdBulk_ends_of_not_guard h hp (by simp [guardHolds, hr]) hk
  | succ k ih =>
    by_cases hg : guardHolds s = true
    · have hr := h.rem_pos hk
      have hwindow := (guardHolds_iff.1 hg).2
      have hsize := quadSize_of_guard hg
      have hlen := quadLen_le (s.encByte s.cc) 4
      have hfits : s.dc + quadLen (s.encByte s.cc) (quadSize s.rem) ≤ s.ENC_LEN := by rw [hsize]; omega
      have hint : s.intHas s.oc 4 := hsize ▸ h.intHas_quad
      have hdue : quadDue s = true := by rw [quadDue, hp]; exact hg
      obtain ⟨m, w, v, hstep⟩ : ∃ m w v, step s =
          .next ((s.afterScalarQuad (s.encByte s.cc) (quadSize s.rem)).withVectors m w v) := by
        rw [step_of_host_nil h.host, engineStep_of_guard hp hg, fetchQuad_of_fits (h.encHas_control hr),
          exec_decodeCtrl_of_due hdue, if_pos hp, simdQuad_of_fits hwindow hint, State.afterSimdQuad_eq, hsize]
        exact ⟨_, _, _, rfl⟩
      rw [runSteps_succ hstep]
      obtain ⟨t, ht, hend⟩ := ih ((h.afterScalarQuad hr hfits).withVectors m w v) hp
        (by show s.cc + 1 + k = controlStreamLen s.n; omega)
      exact ⟨t, ht, .of_afterScalarQuad h hfits hend.of_withVectors⟩
    · exact simdBulk_ends_of_not_guard h hp hg hk

/-! ## The whole command -/

/-- The write of a decode's opcode makes its start step. -/
theorem step_withCommand_decode {s : State} (hb : s.busy = false) {v : Nat} (hv : v = 0x08 ∨ v = 0x09) :
    ∃ st ph, (ph = .scalarTail ∨ ph = .simdBulk) ∧ step (s.withCommand v) = decodeStart st ph (s.commanded v) := by
  rcases hv with rfl | rfl
  · exact ⟨.scalar, .scalarTail, .inl rfl, step_withCommand hb (by decide) (i := .decS) rfl⟩
  · exact ⟨.simd, .simdBulk, .inr rfl, step_withCommand hb (by decide) (i := .decV) rfl⟩

/-- A decode started with its checks passed ends as `decode_fn` says. -/
theorem latched_decode_ends {u : State} (hh : u.host = []) (henough : controlStreamLen u.N + u.N ≤ u.ENC_LEN)
    (hcap : u.N ≤ u.INT_LEN) (st : Strategy) {ph : Phase} (hph : ph = .scalarTail ∨ ph = .simdBulk) :
    ∃ t, runSteps (controlStreamLen u.N + 2) (u.latch u.N st ph) = .next t ∧
      (u.latch u.N st ph).DecodeEnd t (decodeFn u.encByte u.ENC_LEN u.N) := by
  have hready : (u.latch u.N st ph).DecodeReady := ⟨.latch st ph ((Nat.le_add_right _ _).trans henough), hcap, hh⟩
  have hfn : decodeFn u.encByte u.ENC_LEN u.N = (u.latch u.N st ph).decodeRest (controlStreamLen u.N) :=
    if_neg henough.not_gt
  rw [hfn]
  rcases hph with rfl | rfl
  · obtain ⟨t, ht, hend⟩ := scalarTail_ends hready rfl (Nat.zero_add _)
    exact ⟨t, runSteps_of_decodeEnd ht hend (Nat.le_succ _), hend⟩
  · exact simdBulk_ends hready rfl (Nat.zero_add _)

@[simp] theorem raise_host (k : ErrorKind) (e a : Nat) (s : State) : (raise k e a s).host = s.host := by rw [raise_eq]

@[simp] theorem raise_busy (k : ErrorKind) (e a : Nat) (s : State) : (raise k e a s).busy = false := by
  rw [raise_eq]
  rfl

/-- An error of the start step is the end of the command, however many steps follow. -/
theorem runSteps_of_start_error {s u : State} {k : ErrorKind} {e a : Nat} (hh : u.host = [])
    (hstep : step s = .next (raise k e a u)) (m : Nat) : runSteps (m + 1) s = .next (raise k e a u) := by
  rw [runSteps_succ hstep]
  exact runSteps_of_not_busy (by simpa using hh) (raise_busy k e a u) m

/-- Settles O31: the start's two errors, and the two loops where the start passes. -/
theorem decodeCommandsMeetDecodeFn : Obligations.DecodeCommandsMeetDecodeFn := by
  intro s v hv hb hops
  obtain ⟨st, ph, hph, hstep⟩ := step_withCommand_decode hb hv
  obtain ⟨⟨hn, he⟩, hi⟩ : (s.nWritten = true ∧ s.encLenWritten = true) ∧ s.intLenWritten = true := by
    simpa [State.decodeOperandsWritten] using hops
  have hw : (s.commanded v).contractOperandsWritten = true := by
    show (s.nWritten && s.encLenWritten) = true
    rw [hn, he, Bool.and_self]
  rw [show 3 + controlStreamLen s.N = controlStreamLen s.N + 2 + 1 by omega]
  by_cases hshort : s.ENC_LEN < controlStreamLen s.N + s.N
  · rw [decodeStart_of_contract (s := s.commanded v) st ph hb hw hshort] at hstep
    refine ⟨_, runSteps_of_start_error rfl hstep _, ?_⟩
    rw [if_pos hshort]
    exact ⟨rfl, rfl, rfl, rfl, rfl, fun _ _ => rfl, rfl, rfl, rfl, rfl, rfl, rfl⟩
  have henough := not_lt.1 hshort
  by_cases hcap : s.INT_LEN < s.N
  · rw [decodeStart_of_no_capacity (s := s.commanded v) st ph hb hw henough hi hcap] at hstep
    refine ⟨_, runSteps_of_start_error rfl hstep _, ?_⟩
    rw [if_neg hshort, if_pos hcap]
    exact ⟨rfl, rfl, rfl, rfl, rfl, fun _ _ => rfl, rfl, rfl, rfl, rfl, rfl, rfl⟩
  have hroom := not_lt.1 hcap
  rw [decodeStart_of_room (s := s.commanded v) st ph hb hw henough hi hroom] at hstep
  rw [runSteps_succ hstep]
  obtain ⟨t, ht, hend⟩ := latched_decode_ends (u := s.commanded v) rfl henough hroom st hph
  refine ⟨t, ht, hend.ENC, hend.N, hend.X, hend.ENC_LEN, hend.INT_LEN, hend.intWord_kept, ?_⟩
  rw [if_neg hshort, if_neg hcap]
  have hout : State.OutcomeOf _ t (decodeFn s.encByte s.ENC_LEN s.N) := hend.outcome
  generalize decodeFn s.encByte s.ENC_LEN s.N = out at hout
  match out with
  | .ok (xs, e) => exact hout
  | .error (.truncated e) => exact hout
  | .error (.contract e) => exact hout

/-! ## DEC.V and DEC.S agree -/

/-- `u` ends as `t` does: STATUS, RESULT, the error registers and, on DONE, the integers. -/
def State.EndsLike (t u : State) : Prop :=
  t.ended = true ∧ u.phase = t.phase ∧ u.errCode = t.errCode ∧ u.RESULT = t.RESULT ∧
    u.ERR_EXPECTED = t.ERR_EXPECTED ∧ u.ERR_AVAILABLE = t.ERR_AVAILABLE ∧
    (t.phase = .done → ∀ i, u.intWord i = t.intWord i)

/-- Two errors with the same code and registers. -/
theorem State.EndsLike.of_error {t u : State} {k : Option ErrorKind} {e a : Nat}
    (ht : t.phase = .error ∧ t.errCode = k ∧ t.RESULT = 0 ∧ t.ERR_EXPECTED = e ∧ t.ERR_AVAILABLE = a)
    (hu : u.phase = .error ∧ u.errCode = k ∧ u.RESULT = 0 ∧ u.ERR_EXPECTED = e ∧ u.ERR_AVAILABLE = a) :
    t.EndsLike u := by
  obtain ⟨hp, hk, hr, he, ha⟩ := ht
  obtain ⟨hp', hk', hr', he', ha'⟩ := hu
  exact ⟨State.ended_iff.2 (by simp [hp]), by rw [hp, hp'], by rw [hk, hk'], by rw [hr, hr'], by rw [he, he'],
    by rw [ha, ha'], fun hd => absurd (hp ▸ hd) (by decide)⟩

/-- Integers that agree up to `n` in one list and from `n` on with a third state's agree everywhere. -/
theorem intWord_eq_of_intWords_eq {s t u : State} {n : Nat} (hlow : u.intWords 0 n = t.intWords 0 n)
    (ht : ∀ j, n ≤ j → t.intWord j = s.intWord j) (hu : ∀ j, n ≤ j → u.intWord j = s.intWord j) (i : Nat) :
    u.intWord i = t.intWord i := by
  by_cases hi : i < n
  · have h := congrArg (·[i]?) hlow
    simpa only [State.intWords_getElem? _ 0 hi, Nat.zero_add, Option.some_inj] using h
  · rw [hu i (not_lt.1 hi), ht i (not_lt.1 hi)]

/-- Settles O32: both commands end as `decode_fn` says of the same bytes and operands. -/
theorem simdDecodeEqualsScalarDecode : Obligations.SimdDecodeEqualsScalarDecode := by
  intro s hb hops
  obtain ⟨t, hrun, -, -, -, -, -, hkept, ht⟩ := decodeCommandsMeetDecodeFn s 0x08 (.inl rfl) hb hops
  obtain ⟨u, hrun', -, -, -, -, -, hkept', hu⟩ := decodeCommandsMeetDecodeFn s 0x09 (.inr rfl) hb hops
  suffices h : t.EndsLike u from ⟨t, u, hrun, hrun', h⟩
  by_cases hshort : s.ENC_LEN < controlStreamLen s.N + s.N
  · rw [if_pos hshort] at ht hu
    obtain ⟨hp, hk, hr, -, hregs⟩ := ht
    obtain ⟨hp', hk', hr', -, hregs'⟩ := hu
    exact .of_error ⟨hp, hk, hr, hregs⟩ ⟨hp', hk', hr', hregs'⟩
  rw [if_neg hshort] at ht hu
  by_cases hcap : s.INT_LEN < s.N
  · rw [if_pos hcap] at ht hu
    obtain ⟨hp, hk, hr, -, hregs⟩ := ht
    obtain ⟨hp', hk', hr', -, hregs'⟩ := hu
    exact .of_error ⟨hp, hk, hr, hregs⟩ ⟨hp', hk', hr', hregs'⟩
  rw [if_neg hcap] at ht hu
  generalize decodeFn s.encByte s.ENC_LEN s.N = out at ht hu
  match out with
  | .ok (xs, e) =>
    obtain ⟨hp, hk, hr, he, ha, hxs⟩ := ht
    obtain ⟨hp', hk', hr', he', ha', hxs'⟩ := hu
    exact ⟨State.ended_iff.2 (by simp [hp]), by rw [hp, hp'], by rw [hk, hk'], by rw [hr, hr'], by rw [he, he'],
      by rw [ha, ha'], fun _ => intWord_eq_of_intWords_eq (hxs'.symm.trans hxs) hkept hkept'⟩
  | .error (.truncated e) => exact .of_error ht hu
  | .error (.contract e) => exact ht.elim

end Sys2Proof.Machine
end

section
/-! The whole `ENC` command against `encode_fn` (42_scalar_encoder.md R127): after `q` quads the first `q` control bytes
and the payloads of the integers done stand in ENC, by induction over the quads. -/

namespace Sys2Proof.Machine

/-! ## The integers of a quad, and the bytes of the quads done -/

theorem HoldsAt.append {f : Nat → Byte} {d : Nat} {bs cs : List Byte} (hb : HoldsAt f d bs)
    (hc : HoldsAt f (d + bs.length) cs) : HoldsAt f d (bs ++ cs) := by
  intro j b hj
  rcases lt_or_ge j bs.length with hlt | hge
  · exact hb j b (by rwa [List.getElem?_append_left hlt] at hj)
  · obtain ⟨i, rfl⟩ := Nat.exists_eq_add_of_le hge
    rw [← Nat.add_assoc]
    exact hc i b (by rwa [List.getElem?_append_right hge, Nat.add_sub_cancel_left] at hj)

/-- Bytes that do not change are held as before. -/
theorem HoldsAt.congr {f g : Nat → Byte} {d : Nat} {bs : List Byte} (h : HoldsAt f d bs)
    (hsame : ∀ j < bs.length, g (d + j) = f (d + j)) : HoldsAt g d bs := by
  intro j b hj
  rw [hsame j (List.getElem?_eq_some_iff.1 hj).1]
  exact h j b hj

theorem State.intWords_of_INT {s t : State} (h : t.INT = s.INT) : t.intWords = s.intWords := by
  funext i k
  rw [State.intWords, State.intWords, State.intWord_of_INT h]

/-- The integers of quad `q` of the `n` in INT. -/
theorem State.intWords_quad (s : State) {n q : Nat} (hq : 4 * q ≤ n) :
    ((s.intWords 0 n).drop (4 * q)).take 4 = s.intWords (4 * q) (quadSize (n - 4 * q)) := by
  obtain ⟨m, rfl⟩ := Nat.exists_eq_add_of_le hq
  rw [State.intWords_add, List.drop_left' (s.intWords_length 0 _), Nat.add_sub_cancel_left, State.intWords, State.intWords,
    ← List.map_take, List.take_range, quadSize]

theorem State.encodedBytes_eq (s : State) (k : Nat) : s.encodedBytes k = (payloads (s.intWords 0 k)).length := by
  have h := s.encodedBytes_add 0 k
  rwa [Nat.zero_add, show s.encodedBytes 0 = 0 from rfl, Nat.zero_add] at h

/-! ## Where an encode stands after `q` quads -/

/-- `u` stands after `q` quads of the encode that `s` has started. -/
structure State.EncodedTo (s u : State) (q : Nat) : Prop where
  phase : u.phase = .encRun
  host : u.host = []
  cursors : u.CursorsOk
  encoding : u.EncodingOk
  cc_eq : u.cc = q
  operands : s.SameOperands u
  n_eq : u.n = s.n
  errCode : u.errCode = s.errCode
  INT : u.INT = s.INT
  control : ∀ k < q, u.encByte k = quadControl (((s.intWords 0 s.n).drop (4 * k)).take 4)
  data : HoldsAt u.encByte (controlStreamLen s.n) (payloads (s.intWords 0 u.oc))
  kept : ∀ a, u.dc ≤ a → u.encByte a = s.encByte a

/-- The start of an encode is where it stands before its first quad. -/
theorem State.EncodedTo.start {s : State} (hp : s.phase = .encRun) (hh : s.host = []) (hc : s.CursorsOk)
    (he : s.EncodingOk) (hcc : s.cc = 0) : s.EncodedTo s 0 where
  phase := hp
  host := hh
  cursors := hc
  encoding := he
  cc_eq := hcc
  operands := by constructor <;> rfl
  n_eq := rfl
  errCode := rfl
  INT := rfl
  control := nofun
  data := by
    rw [hc.oc_eq, hcc, Nat.mul_zero, Nat.zero_min]
    exact nofun
  kept := fun _ _ => rfl

/-- The state after the next quad of an encode. -/
def State.nextEncoded (u : State) : State := u.afterEncodeQuad (u.intWords u.oc (quadSize u.rem))

/-- With quads left the step is the next quad's. -/
theorem State.EncodedTo.step {s u : State} {q : Nat} (h : s.EncodedTo u q) (hr : 0 < u.rem) :
    step u = .next u.nextEncoded := by
  have hin : u.intHas u.oc (quadSize u.rem) := h.cursors.oc_add_quadSize_le.trans h.encoding.count.le
  have hcc : u.encHas u.cc 1 := (h.cursors.cc_lt_dc hr).trans_le h.cursors.dc_le
  rw [step_of_host_nil h.host, engineStep_of_encRun h.phase hr]
  exact encodeQuad_of_fits hin hcc (h.encoding.payloads_fit h.cursors)

/-- The quad's own integers, as INT holds them from the start. -/
theorem State.EncodedTo.quad {s u : State} {q : Nat} (h : s.EncodedTo u q) (hr : 0 < u.rem) :
    ((s.intWords 0 s.n).drop (4 * q)).take 4 = u.intWords u.oc (quadSize u.rem) := by
  obtain ⟨hoc, hrem, -, -, -⟩ := h.cursors
  have hstart : 4 * q = u.oc := by rw [← h.cc_eq]; omega
  rw [← h.n_eq, s.intWords_quad (by omega), hstart, ← hrem, State.intWords_of_INT h.INT]

/-- What has been written so far ends at `dc`. -/
theorem State.EncodedTo.dc_eq {s u : State} {q : Nat} (h : s.EncodedTo u q) :
    u.dc = controlStreamLen s.n + (payloads (s.intWords 0 u.oc)).length := by
  rw [h.encoding.dc_eq, State.encodedBytes_eq, h.n_eq, State.intWords_of_INT h.INT]

/-- The quad step of an encode takes it one quad further. -/
theorem State.EncodedTo.next {s u : State} {q : Nat} (h : s.EncodedTo u q) (hr : 0 < u.rem) :
    s.EncodedTo u.nextEncoded (q + 1) := by
  have hfits := h.encoding.payloads_fit h.cursors
  have hquad := h.quad hr
  have hcc := h.cc_eq
  have hdc := h.dc_eq
  have hlt : u.cc < controlStreamLen s.n := h.n_eq ▸ h.cursors.cc_lt hr
  refine ⟨h.phase, h.host, h.cursors.afterEncodeQuad hr hfits, h.encoding.afterEncodeQuad, congrArg (· + 1) hcc,
    { h.operands with }, h.n_eq, h.errCode, h.INT, fun k hk => ?_, ?_, fun a ha => ?_⟩
  · rcases Nat.lt_succ_iff_lt_or_eq.1 hk with hk | rfl
    · rw [← h.control k hk]
      exact State.afterEncodeQuad_encByte_outside _ (by omega) (.inl (by omega))
    · rw [hquad, ← hcc]
      exact State.afterEncodeQuad_encByte_control _ (by omega)
  · have hdone : s.intWords 0 u.nextEncoded.oc = s.intWords 0 u.oc ++ u.intWords u.oc (quadSize u.rem) := by
      rw [State.intWords_of_INT h.INT, ← State.intWords_add]
      show s.intWords 0 (u.oc + (u.intWords u.oc (quadSize u.rem)).length) = _
      rw [State.intWords_length]
    rw [hdone, payloads_append]
    refine .append (h.data.congr fun j hj => ?_) ?_
    · exact State.afterEncodeQuad_encByte_outside _ (by omega) (.inl (by omega))
    · rw [← hdc]
      exact fun j b hb => State.encByte_writeList_inside (u.afterEncodeQuad_ENC _) hb
  · have ha' : u.dc + (payloads (u.intWords u.oc (quadSize u.rem))).length ≤ a := ha
    rw [← h.kept a (by omega)]
    exact State.afterEncodeQuad_encByte_outside _ (by omega) (.inr ha')

/-! ## The whole command -/

theorem State.EncodedTo.rem_pos {s u : State} {q : Nat} (h : s.EncodedTo u q) (hq : q < controlStreamLen s.n) :
    0 < u.rem := by
  obtain ⟨hoc, hrem, -, -, -⟩ := h.cursors
  rw [← h.cc_eq, ← h.n_eq] at hq
  unfold controlStreamLen at hq
  omega

/-- As many steps as quads take an encode to its end, one quad each. -/
theorem runSteps_encodedTo {s : State} (h : s.EncodedTo s 0) {q : Nat} (hq : q ≤ controlStreamLen s.n) :
    ∃ u, runSteps q s = .next u ∧ s.EncodedTo u q := by
  induction q with
  | zero => exact ⟨s, rfl, h⟩
  | succ q ih =>
    obtain ⟨u, hu, henc⟩ := ih (Nat.le_of_succ_le hq)
    have hr := henc.rem_pos hq
    exact ⟨u.nextEncoded, (runSteps_add hu 1).trans (runSteps_succ (henc.step hr) 0), henc.next hr⟩

/-- With every quad done nothing is left, and all integers are. -/
theorem State.EncodedTo.done {s u : State} (h : s.EncodedTo u (controlStreamLen s.n)) : u.rem = 0 ∧ u.oc = s.n := by
  obtain ⟨hoc, hrem, -, -, -⟩ := h.cursors
  have hcc := h.cc_eq
  rw [← h.n_eq] at hcc ⊢
  have := controlStreamLen_le_iff.1 hcc.ge
  omega

/-- With every quad done `dc` is the length of the stream. -/
theorem State.EncodedTo.dc_done {s u : State} (h : s.EncodedTo u (controlStreamLen s.n)) :
    u.dc = (encodeFn (s.intWords 0 s.n)).length := by
  rw [h.dc_eq, h.done.2, encodeFn_length, State.intWords_length, payloads_length]

/-- With every quad done the stream stands in ENC. -/
theorem State.EncodedTo.holds_stream {s u : State} (h : s.EncodedTo u (controlStreamLen s.n)) :
    HoldsAt u.encByte 0 (encodeFn (s.intWords 0 s.n)) := by
  have hdata := h.data
  rw [h.done.2] at hdata
  refine .append (fun k b hb => ?_) ?_
  · obtain ⟨hk, hbyte⟩ := List.getElem?_eq_some_iff.1 hb
    rw [Nat.zero_add, h.control k (by simpa using hk), ← hbyte, List.getElem_map, List.getElem_range]
  · simpa using hdata

/-- Settles O22: the start step, a step for each quad, and the end step, after which ENC holds what the quads have
written. -/
theorem encodeCommandWritesTheStream : Obligations.EncodeCommandWritesTheStream := by
  intro s hb henc hint hcap out
  have hw : (s.commanded 0x04).encodeOperandsWritten = true := by
    show (s.encLenWritten && s.intLenWritten) = true
    rw [henc, hint, Bool.and_self]
  have hstart : step (s.withCommand 0x04) = .next ((s.commanded 0x04).latch s.INT_LEN s.strat .encRun) :=
    (step_withCommand hb (by decide) (i := .enc) rfl).trans (exec_enc_of_capacity (s := s.commanded 0x04) hb hw hcap)
  have hbegin := State.EncodedTo.start (s := (s.commanded 0x04).latch s.INT_LEN s.strat .encRun) rfl rfl
    (.latch _ _ ((Nat.le_add_right _ _).trans hcap)) ⟨rfl, hcap, rfl⟩ rfl
  obtain ⟨u, hrun, hu⟩ := runSteps_encodedTo hbegin le_rfl
  have hall : runSteps (1 + controlStreamLen s.INT_LEN) (s.withCommand 0x04) = .next u := by
    rw [Nat.add_comm, runSteps_succ hstart]
    exact hrun
  have hend : step u = .next (u.finish u.dc) := by
    rw [step_of_host_nil hu.host, engineStep_of_rem_zero (.inl hu.phase) hu.done.1]
  have hdc : u.dc = out.length := hu.dc_done
  refine ⟨⟨u, hall, hu.phase⟩, u.finish u.dc, ?_, rfl, hu.errCode, hdc, rfl, rfl, fun a ha => ?_,
    fun a ha => hu.kept a (hdc ▸ ha), hu.INT, hu.operands.N, hu.operands.X, hu.operands.ENC_LEN, hu.operands.INT_LEN,
    hu.operands.CMD⟩
  · rw [show 2 + controlStreamLen s.INT_LEN = 1 + controlStreamLen s.INT_LEN + 1 by omega, runSteps_add hall]
    exact runSteps_succ hend 0
  · have hbyte := hu.holds_stream a out[a] (List.getElem?_eq_getElem ha)
    rwa [Nat.zero_add] at hbyte

end Sys2Proof.Machine
end

section
/-! The register file and the buffers as the host sees them (10_state.md section 2, 20_memory.md section 8), while the
unit is busy and while it is not, and the reset input (70_reset_and_hazards.md section 1). -/

namespace Sys2Proof.Machine

/-! ## Reads -/

/-- The registers in the order of their numbers (R22). -/
def State.registers (s : State) : List Nat :=
  [s.CMD.toNat, s.statusWord.toNat, s.N, s.X.toNat, s.ENC_LEN, s.INT_LEN, s.RESULT, s.ERR_EXPECTED, s.ERR_AVAILABLE]

/-- Register `r` is an operand that nobody has written since reset. -/
def State.Unwritten (s : State) (r : Nat) : Prop :=
  (r = 2 ∧ s.nWritten = false) ∨ (r = 3 ∧ s.xWritten = false) ∨ (r = 4 ∧ s.encLenWritten = false) ∨
    (r = 5 ∧ s.intLenWritten = false)

/-- A read answers the register, or 0 past the last one, unless it is an unwritten operand or, while busy, a register of a
command's end. -/
theorem State.readReg_of_fixed {s : State} {r : Nat} (hw : ¬ s.Unwritten r) (hb : 6 ≤ r → r ≤ 8 → s.busy = false) :
    s.readReg r = some (s.registers.getD r 0) := by
  unfold State.Unwritten at hw
  match r with
  | 0 | 1 => rfl
  | 2 | 3 | 4 | 5 =>
    simp only [State.readReg, State.registers]
    simpa using hw
  | 6 | 7 | 8 =>
    have hidle : s.busy = false := hb (by decide) (by decide)
    simp [State.readReg, State.registers, hidle]
  | n + 9 => simp [State.readReg, State.registers]

theorem State.readReg_of_unwritten {s : State} {r : Nat} (hw : s.Unwritten r) : s.readReg r = none := by
  rcases hw with ⟨rfl, hw⟩ | ⟨rfl, hw⟩ | ⟨rfl, hw⟩ | ⟨rfl, hw⟩ <;> simp [State.readReg, hw]

/-- While busy the registers of a command's end have no fixed value (R28, R29). -/
theorem State.readReg_of_busy {s : State} (hb : s.busy = true) {r : Nat} (hr : 6 ≤ r ∧ r ≤ 8) : s.readReg r = none := by
  obtain rfl | rfl | rfl : r = 6 ∨ r = 7 ∨ r = 8 := by omega
  all_goals simp [State.readReg, hb]

theorem step_rd {s : State} {r : Nat} {rest : List HostOp} (hh : s.host = .rd r :: rest) :
    step s = .next (hostRead r (s.withHost rest)) :=
  step_of_host_cons hh

theorem step_rd_of_some {s : State} {r v : Nat} {rest : List HostOp} (hh : s.host = .rd r :: rest)
    (hv : s.readReg r = some v) : step s = .next ((s.withHost rest).addReadout (.reg r v)) := by
  have hv' : (s.withHost rest).readReg r = some v := hv
  rw [step_rd hh, hostRead, hv']

/-- A read without a fixed value answers some value of the register's width, and draws it. -/
theorem step_rd_of_none {s : State} {r : Nat} {rest : List HostOp} (hh : s.host = .rd r :: rest) (hv : s.readReg r = none) :
    ∃ v, v < 2 ^ (if r = 3 then 32 else s.aw) ∧
      step s = .next { s with host := rest, readouts := .reg r v :: s.readouts, draws := s.draws + 1 } := by
  have hv' : (s.withHost rest).readReg r = none := hv
  refine ⟨Config.freeNat s.draws % 2 ^ readWidth s.aw r, Nat.mod_lt _ (Nat.two_pow_pos _), ?_⟩
  rw [step_rd hh, hostRead, hv']
  rfl

/-- Settles O57: while busy the registers below 6 and the numbers from 9 up read as ever, the others without a fixed
value. -/
theorem busyReadsAnswer : Obligations.BusyReadsAnswer := by
  intro s r rest hb hh
  refine ⟨fun hr => ?_, fun hr => step_rd_of_none hh ?_⟩
  · have hlist : s.registers.getD r 0 =
        [s.CMD.toNat, s.statusWord.toNat, s.N, s.X.toNat, s.ENC_LEN, s.INT_LEN].getD r 0 := by
      rcases lt_or_ge r 6 with hlt | hge
      · exact List.getD_append [_, _, _, _, _, _] [s.RESULT, s.ERR_EXPECTED, s.ERR_AVAILABLE] 0 r hlt
      · have hlen : s.registers.length ≤ r := show 9 ≤ r by omega
        rw [List.getD_eq_default _ _ hlen, List.getD_eq_default _ _ hge]
    have hfixed : ¬ s.Unwritten r := by
      rintro (⟨rfl, hw⟩ | ⟨rfl, hw⟩ | ⟨rfl, hw⟩ | ⟨rfl, hw⟩) <;> simp [hw] at hr
    rw [step_rd_of_some hh (State.readReg_of_fixed hfixed (by omega)), hlist]
    rfl
  · rcases hr with hr | hr | hr | hr | hr
    · exact State.readReg_of_unwritten (.inl hr)
    · exact State.readReg_of_unwritten (.inr (.inl hr))
    · exact State.readReg_of_unwritten (.inr (.inr (.inl hr)))
    · exact State.readReg_of_unwritten (.inr (.inr (.inr hr)))
    · exact State.readReg_of_busy hb hr

/-! ## Writes -/

theorem step_wr {s : State} {r v : Nat} {rest : List HostOp} (hh : s.host = .wr r v :: rest) :
    step s = hostWrite exec r v (s.withHost rest) :=
  step_of_host_cons hh

/-- A value that fits its operand register is stored. -/
theorem step_wr_operand {s : State} {r v w : Nat} {rest : List HostOp} (hb : s.busy = false)
    (hh : s.host = .wr r v :: rest) (hr : r ∈ [2, 3, 4, 5]) (hw : writableWidth s.aw r = some w) (hv : v < 2 ^ w) :
    step s = .next ((s.withHost rest).storeOperand r v) := by
  have hfit : (HostOp.wr r v).wellFormed s.aw = true := by simp [HostOp.wellFormed, hw, hv]
  obtain ⟨hlt, h0⟩ : r < 9 ∧ r ≠ 0 := by
    simp only [List.mem_cons, List.not_mem_nil, or_false] at hr
    omega
  rw [step_wr hh]
  simp [hostWrite, registerCount, hb, hfit, hlt, h0]

/-- A value that does not fit its register is refused (log 13). -/
theorem step_wr_too_wide {s : State} {r v w : Nat} {rest : List HostOp} (hb : s.busy = false)
    (hh : s.host = .wr r v :: rest) (hr : r < 9) (hw : writableWidth s.aw r = some w) (hv : 2 ^ w ≤ v) :
    step s = .refused .hostValueTooWide := by
  have hfit : (HostOp.wr r v).wellFormed s.aw = false := by simp [HostOp.wellFormed, hw, hv]
  rw [step_wr hh]
  simp [hostWrite, registerCount, hb, hfit, hr]

/-- Settles O42: writes by the register's width, reads by the register file. -/
theorem registerFile : Obligations.RegisterFile := by
  intro s rest hb
  refine ⟨fun v hh hv => step_wr_operand hb hh (by decide) rfl hv, fun v hh hv => step_wr_operand hb hh (by decide) rfl hv,
    fun v hh hv => step_wr_operand hb hh (by decide) rfl hv, fun v hh hv => step_wr_operand hb hh (by decide) rfl hv,
    fun r v hh hr => ?_, fun r v hh hr => ?_, fun r hh h2 h3 h4 h5 => ?_, fun r hh hr =>
      step_rd_of_none hh (State.readReg_of_unwritten hr)⟩
  · refine step_wr_of_not_writable hh (writableWidth_eq_none_iff.2 ?_) hb
    simp only [List.mem_cons, List.not_mem_nil, or_false]
    omega
  · rcases hr with ⟨rfl, hv⟩ | ⟨rfl, hv⟩ | ⟨rfl | rfl | rfl, hv⟩
    all_goals exact step_wr_too_wide hb hh (by decide) rfl hv
  · have hfixed : ¬ s.Unwritten r := by
      rintro (⟨rfl, hw⟩ | ⟨rfl, hw⟩ | ⟨rfl, hw⟩ | ⟨rfl, hw⟩)
      · simp [h2 rfl] at hw
      · simp [h3 rfl] at hw
      · simp [h4 rfl] at hw
      · simp [h5 rfl] at hw
    rw [step_rd_of_some hh (State.readReg_of_fixed hfixed fun _ _ => hb)]
    rfl

/-! ## The buffers -/

/-- A buffer access inside the space is made while the unit is not busy. -/
theorem bufferAccess_of_inside {op : HostOp} {s t : State} (hb : s.busy = false) (hfit : op.wellFormed s.aw = true) :
    bufferAccess op s t = .next t := by
  simp [bufferAccess, hb, hfit]

theorem bufferAccess_of_outside {op : HostOp} {s t : State} (hb : s.busy = false) (hfit : op.wellFormed s.aw = false) :
    bufferAccess op s t = .refused .hostOutsideSpace := by
  simp [bufferAccess, hb, hfit]

theorem bufferAccess_of_busy {op : HostOp} {s t : State} (hb : s.busy = true) :
    bufferAccess op s t = .refused .hostAccessWhileBusy :=
  if_pos hb

/-- Settles O58: inside the space the access is made, the cells written being the list's; outside it is refused. -/
theorem hostFillsAndDumpsBuffers : Obligations.HostFillsAndDumpsBuffers := by
  intro s rest hb
  have inside {op : HostOp} {t : State} (h : op.wellFormed s.aw = true) : bufferAccess op (s.withHost rest) t = .next t :=
    bufferAccess_of_inside hb h
  have outside {op : HostOp} {t : State} (h : op.wellFormed s.aw = false) :
      bufferAccess op (s.withHost rest) t = .refused .hostOutsideSpace := bufferAccess_of_outside hb h
  refine ⟨fun a bs hh hfit => ⟨_, (step_of_host_cons hh).trans (inside (decide_eq_true hfit)), rfl, fun j hj => ?_,
      fun b hout => ?_⟩,
    fun i xs hh hfit => ⟨_, (step_of_host_cons hh).trans (inside (decide_eq_true hfit)), rfl, fun j hj => ?_,
      fun k hout => ?_⟩,
    fun a k hh hfit => (step_of_host_cons hh).trans (inside (decide_eq_true hfit)),
    fun i k hh hfit => (step_of_host_cons hh).trans (inside (decide_eq_true hfit)),
    fun a bs hh hout => (step_of_host_cons hh).trans (outside (decide_eq_false hout.not_ge)),
    fun i xs hh hout => (step_of_host_cons hh).trans (outside (decide_eq_false hout.not_ge)),
    fun a k hh hout => (step_of_host_cons hh).trans (outside (decide_eq_false hout.not_ge)),
    fun i k hh hout => (step_of_host_cons hh).trans (outside (decide_eq_false hout.not_ge))⟩
  · exact State.encByte_writeList_inside (s := s) rfl (List.getElem?_eq_getElem hj)
  · exact State.encByte_writeList_outside (s := s) rfl hout
  · exact State.intWord_writeList_inside (s := s) rfl (List.getElem?_eq_getElem hj)
  · exact State.intWord_writeList_outside (s := s) rfl hout

/-! ## Host accesses while busy -/

/-- While busy a write to a register of the unit is refused (R212). -/
theorem step_wr_of_busy {s : State} {r v : Nat} {rest : List HostOp} (hb : s.busy = true) (hh : s.host = .wr r v :: rest)
    (hr : r ≤ 8) : step s = .refused .hostAccessWhileBusy := by
  have hlt : ¬ registerCount ≤ r := by
    unfold registerCount
    omega
  rw [step_wr hh, hostWrite, if_neg hlt]
  exact if_pos hb

/-- Settles O39: a write to a number from 9 up and a read of STATUS are all that a busy unit answers here. -/
theorem busyHostAccessIsRefused : Obligations.BusyHostAccessIsRefused := by
  intro s rest hb
  have refused {op : HostOp} {t : State} : bufferAccess op (s.withHost rest) t = .refused .hostAccessWhileBusy :=
    bufferAccess_of_busy hb
  exact ⟨fun r v hh hr => step_wr_of_busy hb hh hr,
    fun r v hh hr => (step_wr hh).trans (hostWrite_no_register hr v _),
    fun a bs hh => (step_of_host_cons hh).trans refused, fun i xs hh => (step_of_host_cons hh).trans refused,
    fun a k hh => (step_of_host_cons hh).trans refused, fun i k hh => (step_of_host_cons hh).trans refused,
    fun hh => step_rd_of_some hh rfl, fun _ hi => exec_command_of_busy hb hi⟩

/-! ## Reset -/

/-- Settles O43, by the fields of the reset state. -/
theorem resetValues : Obligations.ResetValues :=
  fun _ => ⟨rfl, rfl, rfl, rfl, rfl, rfl, rfl, rfl, rfl, rfl, rfl, rfl, rfl⟩

/-- A unit that is not busy has no destination to lose (R210). -/
theorem resetUnit_of_not_busy {s : State} (hb : s.busy = false) :
    (resetUnit s).ENC = s.ENC ∧ (resetUnit s).INT = s.INT := by
  unfold resetUnit
  cases hp : s.phase with
  | encRun | simdBulk | scalarTail => simp [State.busy, hp] at hb
  | idle | done | error => exact ⟨rfl, rfl⟩

/-- A running encode loses the bytes of its destination and no integer (R211). -/
theorem resetUnit_of_encRun {s : State} (hp : s.phase = .encRun) :
    (resetUnit s).INT = s.INT ∧ (resetUnit s).ENC = s.loseBytes.ENC := by
  unfold resetUnit
  rw [hp]
  exact ⟨rfl, rfl⟩

/-- A running decode loses the integers of its destination and no byte (R211). -/
theorem resetUnit_of_decode {s : State} (hp : s.phase = .simdBulk ∨ s.phase = .scalarTail) :
    (resetUnit s).ENC = s.ENC ∧ (resetUnit s).INT = s.loseInts.INT := by
  unfold resetUnit
  rcases hp with hp | hp <;> rw [hp] <;> exact ⟨rfl, rfl⟩

/-- Settles O44: the registers take their reset values, and what a running command loses lies in its destination. -/
theorem resetEvent : Obligations.ResetEvent := by
  intro s rest hh
  refine ⟨_, step_of_host_cons hh, rfl, rfl, rfl, rfl, rfl, rfl, rfl, rfl, rfl, rfl, rfl, rfl,
    fun hrest => idleEngineDoesNothing _ hrest rfl, fun hb => resetUnit_of_not_busy (s := s.withHost rest) hb, fun hp => ?_,
    fun hp => ?_⟩
  · obtain ⟨hint, henc⟩ := resetUnit_of_encRun (s := s.withHost rest) hp
    exact ⟨hint, fun a ha => State.encByte_writeList_outside (s := s) henc
      (.inr (by rwa [drawnBytes_length, Nat.zero_add]))⟩
  · obtain ⟨henc, hint⟩ := resetUnit_of_decode (s := s.withHost rest) hp
    exact ⟨henc, fun i hi => State.intWord_writeList_outside (s := s) hint
      (.inr (by rwa [drawnInts_length, Nat.zero_add]))⟩

end Sys2Proof.Machine
end
